-- ==== Sys2Proof/Word.lean ====
section
/-! DEFINITION. The words of CGC: the widths the spec gives its ports (spec/10_state.md R16, R17). -/

namespace Sys2Proof

/-- One byte of a payload (R31). -/
abbrev Byte := BitVec 8

/-- An `f64` port: the bit pattern of an IEEE-754 binary64 value (R81, G1). -/
abbrev F64 := BitVec 64

/-- The `val32` port read as `f32`: the bit pattern of an IEEE-754 binary32 value (R81, R116). -/
abbrev F32 := BitVec 32

/-- The identifier word: 29 bits (R30, R36). -/
abbrev Ident := BitVec 29

end Sys2Proof
end

