-- ==== Sys2Proof/Syntax.lean ====
section
/-! DEFINITION. The operations of CGC as syntax: one constructor of `Instr` per row of spec/opcode_table.json, and
the request bundles a host presents (spec/10_state.md R16, spec/30_encoding.md R50 to R65). -/

namespace Sys2Proof

/-- The value format of a parameter (R115, port `fmt` of R16). -/
inductive Fmt where
  | u8
  | i16
  | i32
  | f32
  deriving DecidableEq, Repr

/-- The bounds a descriptor may carry: "optional(min,max)" (R115). -/
structure Bounds where
  min : F64
  max : F64
  deriving DecidableEq, Repr

/-- The eight bytes of a payload buffer, offsets 0 to 7 (R31). -/
structure Buffer where
  b0 : Byte
  b1 : Byte
  b2 : Byte
  b3 : Byte
  b4 : Byte
  b5 : Byte
  b6 : Byte
  b7 : Byte
  deriving DecidableEq, Repr

/-- The four bytes of a parameter's value field, `v[0..3]` of R121 and `p_raw[0..3]` of R153. -/
structure Quad where
  v0 : Byte
  v1 : Byte
  v2 : Byte
  v3 : Byte
  deriving DecidableEq, Repr

/-- The closed enumeration of eleven wire opcodes, CG's CommandOpcode (R58). -/
inductive WireOpcode where
  | getDeviceId
  | motorControl
  | motorFeedback
  | motorEnable
  | motorStop
  | setMechanicalZero
  | setMotorCanId
  | paramTableWrite
  | singleParamRead
  | singleParamWrite
  | faultFeedback
  deriving DecidableEq, Repr

/-- The instructions: one constructor per row of spec/opcode_table.json, the rows' order kept.

The sixteen `OP` rows are the values of the `op` port with the operands R62 names (R16: an operand the operation does
not name is not read, so a constructor carries only the named ones). The four `FB` rows are the arms of the parser,
each with the whole inbound frame it is given. The nine `REQ` rows are the outbound frames of the request layout, each
with the fields of its identifier and payload that vary. -/
inductive Instr where
  /-- `op = 0`: quantize with clamping (R86). -/
  | qenc (value min max : F64) (bits : BitVec 8)
  /-- `op = 1`: quantize with rejection (R87). -/
  | qencs (value min max : F64)
  /-- `op = 2`: dequantize (R88). -/
  | qdec (raw : BitVec 32) (min max : F64) (bits : BitVec 8)
  /-- `op = 3`: pack a request identifier (R102). -/
  | idpack (opcode : BitVec 5) (data16 : BitVec 16) (target : Byte)
  /-- `op = 4`: unpack an identifier in the request layout (R103). -/
  | idunpkReq (id : Ident)
  /-- `op = 5`: unpack an identifier in the feedback layout (R104). -/
  | idunpkFb (id : Ident)
  /-- `op = 6`: look up a descriptor by index (R119). -/
  | ptlook (index : BitVec 16)
  /-- `op = 7`: build the enable frame (R131). -/
  | fbEnable (target master : Byte)
  /-- `op = 8`: build the stop frame (R132). -/
  | fbDisable (target master : Byte)
  /-- `op = 9`: build the set-mechanical-zero frame (R133). -/
  | fbSetzero (target master : Byte)
  /-- `op = 10`: build a single-parameter write (R134); `bounds` is `none` when the `bounded` port is 0. -/
  | fbWrparam (target master : Byte) (index : BitVec 16) (fmt : Fmt) (bounds : Option Bounds) (val32 : BitVec 32)
  /-- `op = 11`: build a single-parameter read request (R135). -/
  | fbRdparam (target master : Byte) (index : BitVec 16)
  /-- `op = 12`: build the motion-control frame (R136). -/
  | fbMotion (target : Byte) (torque angle velocity kp kd : F64)
  /-- `op = 13`: classify and decode one inbound frame (R150). -/
  | fpParse (id : Ident) (dlc : BitVec 4) (payload : Buffer)
  /-- `op = 14`: unassigned (R189). -/
  | reservedOp14
  /-- `op = 15`: unassigned (R189). -/
  | reservedOp15
  /-- The parser's arm for wire opcode 2 (R152). -/
  | fpMotorFeedback (id : Ident) (dlc : BitVec 4) (payload : Buffer)
  /-- The parser's arm for wire opcode 17 (R153). -/
  | fpParameterFeedback (id : Ident) (dlc : BitVec 4) (payload : Buffer)
  /-- The parser's arm for wire opcode 21 (R154). -/
  | fpFault (id : Ident) (dlc : BitVec 4) (payload : Buffer)
  /-- The parser's arm for every other wire opcode (R155). -/
  | fpUnknown (id : Ident) (dlc : BitVec 4) (payload : Buffer)
  /-- The frame of wire opcode 1: `data16` is the quantized torque (R51, R55). -/
  | wireMotorControl (data16 : BitVec 16) (target : Byte) (angleQ velocityQ kpQ kdQ : BitVec 16)
  /-- The frame of wire opcode 3 (R57, `NONE`). -/
  | wireMotorEnable (master target : Byte)
  /-- The frame of wire opcode 4 (R57, `ZERO8`). -/
  | wireMotorStop (master target : Byte)
  /-- The frame of wire opcode 6 (R57, `ONE`). -/
  | wireSetMechanicalZero (master target : Byte)
  /-- The frame of wire opcode 17 in the request layout (R54, read). -/
  | wireSingleParamRead (master target : Byte) (index : BitVec 16)
  /-- The frame of wire opcode 18 (R54, write): `value` is the serialised value field of R121. -/
  | wireSingleParamWrite (master target : Byte) (index : BitVec 16) (value : Quad)
  /-- The identifier of wire opcode 0, which has no builder and no payload in the source (R60, R137). -/
  | wireGetDeviceId (data16 : BitVec 16) (target : Byte)
  /-- The identifier of wire opcode 7, which has no builder and no payload in the source (R60, R137). -/
  | wireSetMotorCanId (data16 : BitVec 16) (target : Byte)
  /-- The identifier of wire opcode 8, which has no builder and no payload in the source (R60, R137). -/
  | wireParamTableWrite (data16 : BitVec 16) (target : Byte)
  deriving DecidableEq, Repr

/-- The request ports of CGC, every row of the table of R16 with its width. -/
structure Ports where
  op : BitVec 4
  value : F64
  min : F64
  max : F64
  bits : BitVec 8
  raw : BitVec 32
  opcode : BitVec 5
  data16 : BitVec 16
  target : Byte
  master : Byte
  id : Ident
  dlc : BitVec 4
  B : Buffer
  index : BitVec 16
  fmt : BitVec 2
  bounded : BitVec 1
  val32 : BitVec 32
  torque : F64
  angle : F64
  velocity : F64
  kp : F64
  kd : F64
  deriving DecidableEq, Repr

/-- What a host presents to CGC: the encoded form of one instruction.

`op` is the request bundle of R16. `inbound` is a frame that arrived, for the parser's arms (the `FB` rows of R64).
`outbound` is a frame of the request layout, identifier and payload bytes, for the `REQ` rows of R64; it carries no
length, which the frame kind fixes on the sending side (R65). R53: the direction is stated by the caller and never
read off the bits, which is why the three are kept apart by a tag. -/
inductive Request where
  | op (ports : Ports)
  | inbound (id : Ident) (dlc : BitVec 4) (payload : Buffer)
  | outbound (id : Ident) (payload : Buffer)
  deriving DecidableEq, Repr

end Sys2Proof
end

