-- ==== Sys2Proof/Config.lean ====
section
/-! DEFINITION. The configuration record `cfg` of CGC (spec/10_state.md R15, spec/00_scope.md R8): the types of its
fields, the constants the spec fixes, the defaults of the fields it leaves open, and the free values. -/

namespace Sys2Proof

/-- The tie rule of the final rounding, `cfg.ROUND_TIE` (R15, R84). -/
inductive Tie where
  | halfAwayFromZero
  | halfToEven
  deriving DecidableEq, Repr

/-- A byte order (R15, R35). -/
inductive Order where
  | little
  | big
  deriving DecidableEq, Repr

/-- A parameter descriptor: `(index, fmt, bounded, min, max)`, the bounds present when `bounded = 1` (R115). -/
structure Descriptor where
  index : BitVec 16
  fmt : Fmt
  bounds : Option Bounds
  deriving DecidableEq, Repr

/-- The open fields of `cfg`: the rows of R8 marked "configuration" (the rows marked "fixed" are the constants
below; the rows marked "(host)" are no fields of `cfg`, conflict C11). -/
structure Cfg where
  /-- `cfg.BITS_MIN`, u8. -/
  bitsMin : BitVec 8
  /-- `cfg.BITS_MAX`, u8. -/
  bitsMax : BitVec 8
  /-- `cfg.TEMP_MIN`, f64. -/
  tempMin : F64
  /-- `cfg.TEMP_MAX`, f64. -/
  tempMax : F64
  /-- `cfg.ROUND_TIE`. -/
  roundTie : Tie
  /-- `cfg.MC_ORDER`. -/
  mcOrder : Order
  /-- `cfg.FB_ORDER`. -/
  fbOrder : Order
  /-- `cfg.PIDX_TX_ORDER`. -/
  pidxTxOrder : Order
  /-- `cfg.PIDX_RX_ORDER`. -/
  pidxRxOrder : Order
  /-- `cfg.PVAL_ORDER`. -/
  pvalOrder : Order
  /-- `cfg.PARAM_TABLE` (R18, R118). -/
  paramTable : List Descriptor
  /-- `cfg.MAGNETIC_BIT`, 5 bits (R15). -/
  magneticBit : BitVec 5
  deriving DecidableEq, Repr

/-! ## The constants the spec fixes (R8, R15) -/

/-- `cfg.P_MIN`, −4π. -/
def Config.pMin : F64 := 0xC02921FB54442D18#64
/-- `cfg.P_MAX`, +4π. -/
def Config.pMax : F64 := 0x402921FB54442D18#64
/-- `cfg.V_MIN`, −30.0. -/
def Config.vMin : F64 := 0xC03E000000000000#64
/-- `cfg.V_MAX`, 30.0. -/
def Config.vMax : F64 := 0x403E000000000000#64
/-- `cfg.T_MIN`, −12.0. -/
def Config.tMin : F64 := 0xC028000000000000#64
/-- `cfg.T_MAX`, 12.0. -/
def Config.tMax : F64 := 0x4028000000000000#64
/-- `cfg.KP_MIN`, 0.0. -/
def Config.kpMin : F64 := 0x0000000000000000#64
/-- `cfg.KP_MAX`, 500.0. -/
def Config.kpMax : F64 := 0x407F400000000000#64
/-- `cfg.KD_MIN`, 0.0. -/
def Config.kdMin : F64 := 0x0000000000000000#64
/-- `cfg.KD_MAX`, 5.0. -/
def Config.kdMax : F64 := 0x4014000000000000#64
/-- `QBITS`, the quantization width of every protocol field (R8). -/
def Config.qbits : BitVec 8 := 16#8
/-- The identity string a model may print (R2). -/
def Config.identity : String := "CGC-CG-v7"

/-! ## The parameter table -/

/-- The two rows the source gives evidence of, `0x7016` and `0x7017`, both `f32` and taken as unbounded (R118, first
table). -/
def Config.evidencedTable : List Descriptor :=
  [⟨0x7016#16, .f32, none⟩, ⟨0x7017#16, .f32, none⟩]

/-- The suggested default table (R118, second table; G5). DESIGN CHOICE: `State.reset` carries it (log 3). -/
def Config.suggestedTable : List Descriptor :=
  [⟨0x7005#16, .u8, some ⟨0x0000000000000000#64, 0x4008000000000000#64⟩⟩,
   ⟨0x7006#16, .f32, some ⟨0xC037000000000000#64, 0x4037000000000000#64⟩⟩,
   ⟨0x700A#16, .f32, some ⟨0xC03E000000000000#64, 0x403E000000000000#64⟩⟩,
   ⟨0x700B#16, .f32, some ⟨0x0000000000000000#64, 0x4028000000000000#64⟩⟩,
   ⟨0x7010#16, .f32, none⟩,
   ⟨0x7011#16, .f32, none⟩,
   ⟨0x7014#16, .f32, some ⟨0x0000000000000000#64, 0x3FF0000000000000#64⟩⟩,
   ⟨0x7016#16, .f32, none⟩,
   ⟨0x7017#16, .f32, some ⟨0x0000000000000000#64, 0x403E000000000000#64⟩⟩,
   ⟨0x7018#16, .f32, some ⟨0x0000000000000000#64, 0x4037000000000000#64⟩⟩,
   ⟨0x7019#16, .f32, none⟩,
   ⟨0x701A#16, .f32, none⟩,
   ⟨0x701B#16, .f32, none⟩,
   ⟨0x701C#16, .f32, none⟩,
   ⟨0x701D#16, .i16, none⟩,
   ⟨0x701E#16, .f32, none⟩,
   ⟨0x701F#16, .f32, none⟩,
   ⟨0x7020#16, .f32, none⟩]

/-- `cfg` with every open field at the default R8 and R15 show. -/
def Config.default : Cfg where
  bitsMin := 1#8
  bitsMax := 32#8
  tempMin := 0x0000000000000000#64
  tempMax := 0x40B9998000000000#64
  roundTie := .halfAwayFromZero
  mcOrder := .little
  fbOrder := .big
  pidxTxOrder := .little
  pidxRxOrder := .big
  pvalOrder := .little
  paramTable := Config.suggestedTable
  magneticBit := 19#5

/-! ## The host's parameters (R8, rows marked "(host)"; no fields of `cfg`) -/

/-- A value the host's caller gives for a parameter write (spec/45_facade_pseudo_ops.md R174): a whole number, a value
already in binary32 ("CG writes the value already as `3.1f`"), or a binary64 value. The forms are the host's own: CG
leaves the value untyped (92_eei_decisions.md D17; log 22). -/
inductive HostValue where
  | integer (n : Int)
  | single (x : F32)
  | double (x : F64)
  deriving DecidableEq, Repr

/-- `DEFAULT_TIMEOUT_MS`, the host's reply timeout (R8, R202). -/
def Config.defaultTimeoutMs : Nat := 2000

/-- `LOC_REF_INDEX`, the index `SetLocRef` writes (R8, R178). -/
def Config.locRefIndex : BitVec 16 := 0x7016#16

/-! ## Free values: constants with no body, about which nothing can be proved -/

/-- The bit pattern an arithmetic step would give for a NaN. R91: "No canonical NaN is needed because none is
produced"; the spec names no pattern, so none is chosen (log 12). -/
opaque Config.nanPattern : F64

/-- What `round_tie` gives outside its domain (an infinite or NaN quotient). R84 defines it for finite `t >= 0` only
(log 12). -/
opaque Config.roundTieUnstated : Nat

/-- The word a host presents for a value that is no whole number of 32 bits when the format is an integer one. R174
gives `to_val32` for "the integer" only and states no result for such a value (log 22). -/
opaque Config.hostConversion : Fmt → HostValue → BitVec 32

/-- Sign and payload bits of the quiet NaN a host's narrowing gives for a binary64 NaN. R174 asks for "the binary32
pattern of the value" and names no pattern for a NaN (log 22). -/
opaque Config.hostNaN : F64 → BitVec 23

end Sys2Proof
end

