-- ==== Sys2Proof/Machine/Bits.lean ====
section
/-! DEFINITION. Bit fields, byte orders and the payload buffer: the helpers of spec/00_scope.md R9 and
spec/20_memory.md R30 to R35, and the fields of the two identifier layouts (spec/30_encoding.md R51, R52). -/

namespace Sys2Proof.Machine

/-! ## Byte lists as numbers (R9) -/

/-- `le(bytes)`: the first byte least significant. -/
def le : List Byte → Nat
  | [] => 0
  | b :: bs => b.toNat + 256 * le bs

/-- `be(bytes)`: the first byte most significant. -/
def be (bs : List Byte) : Nat := le bs.reverse

/-- `to_le(v, n)`. -/
def toLe (v : Nat) : Nat → List Byte
  | 0 => []
  | n + 1 => BitVec.ofNat 8 v :: toLe (v / 256) n

/-- `to_be(v, n)`. -/
def toBe (v n : Nat) : List Byte := (toLe v n).reverse

/-- `ord(order, bytes)`. -/
def ord : Order → List Byte → Nat
  | .little, bs => le bs
  | .big, bs => be bs

/-- `to_ord(order, v, n)`. -/
def toOrd : Order → Nat → Nat → List Byte
  | .little, v, n => toLe v n
  | .big, v, n => toBe v n

/-! ## The payload buffer (R31, R33, R34) -/

/-- Eight `0x00` bytes, the buffer every builder starts from (R34). -/
def zeroBuffer : Buffer := ⟨0, 0, 0, 0, 0, 0, 0, 0⟩

/-- Byte `k` of a buffer; a buffer has no byte at offset 8 or above (R31), where no rule reads. -/
def getByte (B : Buffer) : Nat → Byte
  | 0 => B.b0
  | 1 => B.b1
  | 2 => B.b2
  | 3 => B.b3
  | 4 => B.b4
  | 5 => B.b5
  | 6 => B.b6
  | 7 => B.b7
  | _ => 0

/-- The buffer with byte `k` replaced; offsets 8 and above do not exist (R31), and no rule writes one. -/
def putByte (B : Buffer) : Nat → Byte → Buffer
  | 0, v => { B with b0 := v }
  | 1, v => { B with b1 := v }
  | 2, v => { B with b2 := v }
  | 3, v => { B with b3 := v }
  | 4, v => { B with b4 := v }
  | 5, v => { B with b5 := v }
  | 6, v => { B with b6 := v }
  | 7, v => { B with b7 := v }
  | _, _ => B

/-- `MemRead(off, n)` (R33). -/
def memRead (B : Buffer) (off : Nat) : Nat → List Byte
  | 0 => []
  | n + 1 => getByte B off :: memRead B (off + 1) n

/-- `MemWrite(off, n, bytes)` with `n` the length of `bytes` (R34). -/
def memWrite (B : Buffer) (off : Nat) : List Byte → Buffer
  | [] => B
  | v :: vs => memWrite (putByte B off v) (off + 1) vs

/-- A two-byte payload field read in a byte order. -/
def readU16 (order : Order) (B : Buffer) (off : Nat) : BitVec 16 :=
  BitVec.ofNat 16 (ord order (memRead B off 2))

/-- A two-byte payload field written in a byte order. -/
def writeU16 (order : Order) (B : Buffer) (off : Nat) (v : BitVec 16) : Buffer :=
  memWrite B off (toOrd order v.toNat 2)

/-- The value field, bytes 4 to 7 (R54, R57). -/
def readQuad (B : Buffer) : Quad := ⟨getByte B 4, getByte B 5, getByte B 6, getByte B 7⟩

/-- The bytes of a value field as a list. -/
def quadBytes (v : Quad) : List Byte := [v.v0, v.v1, v.v2, v.v3]

/-! ## The identifier layouts (R51, R52) -/

/-- `id[28:24]`, the wire opcode, in the same place in both layouts (R53). -/
def idOpcode (id : Ident) : BitVec 5 := id.extractLsb' 24 5

/-- `id[23:8]`, `data16` of the request layout (R51). -/
def idData16 (id : Ident) : BitVec 16 := id.extractLsb' 8 16

/-- `id[7:0]`, `target` of the request layout (R51), `master` of the feedback layout (R52). -/
def idLow (id : Ident) : Byte := id.extractLsb' 0 8

/-- `id[15:8]`, `motor` of the feedback layout (R52); the master id of a built frame (R59 (a)). -/
def idMid (id : Ident) : Byte := id.extractLsb' 8 8

/-- `id[23:16]`, zero in every built frame but the motion-control frame (R59 (a)). -/
def idHigh (id : Ident) : Byte := id.extractLsb' 16 8

/-- `id[23:22]`, `mode` of the feedback layout (R52). -/
def idMode (id : Ident) : BitVec 2 := id.extractLsb' 22 2

/-- `id[21:16]`, `faults` of the feedback layout (R52). -/
def idFaults (id : Ident) : BitVec 6 := id.extractLsb' 16 6

/-- The request layout put together: `{opcode, data16, target}` (R51, R102). -/
def packId (opcode : BitVec 5) (data16 : BitVec 16) (target : Byte) : Ident := opcode ++ data16 ++ target

/-- `zext_16(master)`, the `data16` of every built frame but the motion-control frame (R59 (a)). -/
def masterData16 (master : Byte) : BitVec 16 := master.zeroExtend 16

/-! ## The built payloads (R54, R55, R57) -/

/-- The payload `PARAM` (R54, R122): index in bytes 0 to 1, reserved zeros in bytes 2 to 3, value field in bytes 4 to
7. -/
def paramBuffer (c : Cfg) (index : BitVec 16) (v : Quad) : Buffer :=
  memWrite (writeU16 c.pidxTxOrder zeroBuffer 0 index) 4 (quadBytes v)

/-- The payload `MOTION` (R55, R136): angle, velocity, kp, kd, each a u16 in `MC_ORDER`. -/
def motionBuffer (c : Cfg) (angleQ velocityQ kpQ kdQ : BitVec 16) : Buffer :=
  writeU16 c.mcOrder (writeU16 c.mcOrder (writeU16 c.mcOrder (writeU16 c.mcOrder zeroBuffer 0 angleQ) 2 velocityQ)
    4 kpQ) 6 kdQ

/-! ## Codes (92_eei_decisions.md D3) -/

/-- The wire opcode values (R58). -/
def wireCode : WireOpcode → BitVec 5
  | .getDeviceId => 0#5
  | .motorControl => 1#5
  | .motorFeedback => 2#5
  | .motorEnable => 3#5
  | .motorStop => 4#5
  | .setMechanicalZero => 6#5
  | .setMotorCanId => 7#5
  | .paramTableWrite => 8#5
  | .singleParamRead => 17#5
  | .singleParamWrite => 18#5
  | .faultFeedback => 21#5

/-- The enumeration read back: `none` for the 21 values outside it (R58, R60). -/
def wireOpcodeOf (c : BitVec 5) : Option WireOpcode :=
  match c.toNat with
  | 0 => some .getDeviceId
  | 1 => some .motorControl
  | 2 => some .motorFeedback
  | 3 => some .motorEnable
  | 4 => some .motorStop
  | 6 => some .setMechanicalZero
  | 7 => some .setMotorCanId
  | 8 => some .paramTableWrite
  | 17 => some .singleParamRead
  | 18 => some .singleParamWrite
  | 21 => some .faultFeedback
  | _ => none

/-- The code of a format on the `fmt` and `d_fmt` ports (R16, R115). -/
def fmtCode : Fmt → BitVec 2
  | .u8 => 0#2
  | .i16 => 1#2
  | .i32 => 2#2
  | .f32 => 3#2

/-- The `fmt` port read: all four codes are formats (R16). -/
def fmtOf (c : BitVec 2) : Fmt :=
  match c.toNat with
  | 0 => .u8
  | 1 => .i16
  | 2 => .i32
  | _ => .f32

/-- The `bounded`, `min` and `max` ports read as optional bounds: `min` and `max` are read only when `bounded = 1`
(R115). -/
def boundsOf (bounded : BitVec 1) (mn mx : F64) : Option Bounds :=
  if bounded = 1#1 then some ⟨mn, mx⟩ else none

end Sys2Proof.Machine
end

