-- ==== Sys2Proof/Machine/Float.lean ====
section
/-! DEFINITION. IEEE-754 arithmetic on exact values (spec/40_quantization.md R81 to R84, spec/00_scope.md R9).

Every finite binary64 value is a whole multiple of `2^-1074`, the least positive subnormal. A value is held as that
multiple (`mag`, a natural number of units) with its sign, so that sums, products and quotients are exact fractions of
naturals, and each arithmetic step is one exact fraction rounded once to nearest, ties to even. Taken from general
knowledge of IEEE-754 as R81 and R82 say (G1, G2; log 13). -/

namespace Sys2Proof.Machine

/-- A binary64 value: a NaN, an infinity, or a finite value `(−1)^neg × mag × 2^-1074`. -/
inductive Flt where
  | nan
  | inf (neg : Bool)
  | fin (neg : Bool) (mag : Nat)
  deriving DecidableEq, Repr

/-- The units in 1.0: `2^1074`. -/
def unitsPerOne : Nat := 2 ^ 1074

/-- The units at which binary64 overflows: `2^1024`. -/
def unitsOverflow : Nat := 2 ^ 2098

/-- Sign bit, exponent field and fraction field of a binary64 pattern (R81). -/
def f64Sign (x : F64) : Bool := x.getLsbD 63
def f64Exponent (x : F64) : Nat := (x.extractLsb' 52 11).toNat
def f64Fraction (x : F64) : Nat := (x.extractLsb' 0 52).toNat

/-- The value a binary64 pattern stands for (R81). -/
def f64Value (x : F64) : Flt :=
  if f64Exponent x = 2047 then
    if f64Fraction x = 0 then .inf (f64Sign x) else .nan
  else if f64Exponent x = 0 then .fin (f64Sign x) (f64Fraction x)
  else .fin (f64Sign x) ((2 ^ 52 + f64Fraction x) * 2 ^ (f64Exponent x - 1))

/-- Sign bit, exponent field and fraction field of a binary32 pattern (R81). -/
def f32Sign (x : F32) : Bool := x.getLsbD 31
def f32Exponent (x : F32) : Nat := (x.extractLsb' 23 8).toNat
def f32Fraction (x : F32) : Nat := (x.extractLsb' 0 23).toNat

/-- The value a binary32 pattern stands for, widened to binary64, exact (R81, R116). The least positive binary32
subnormal, `2^-149`, is `2^925` units. -/
def f32Value (x : F32) : Flt :=
  if f32Exponent x = 255 then
    if f32Fraction x = 0 then .inf (f32Sign x) else .nan
  else if f32Exponent x = 0 then .fin (f32Sign x) (f32Fraction x * 2 ^ 925)
  else .fin (f32Sign x) ((2 ^ 23 + f32Fraction x) * 2 ^ (f32Exponent x - 1) * 2 ^ 925)

/-- The integer nearest `n / d`, a tie going to the even one. -/
def divNearestEven (n d : Nat) : Nat :=
  let q := n / d
  let r := n % d
  if 2 * r < d then q
  else if d < 2 * r then q + 1
  else if q % 2 = 0 then q else q + 1

/-- The places by which a binary64 significand must be shifted left to reach a value of `q` whole units: zero up to
`2^53` units, where binary64 is spaced one unit apart. -/
def binadeShift (q : Nat) : Nat := Nat.log2 q - 52

/-- `RN` of the fraction `n / d` of units, the exponent unbounded above: the nearest whole multiple of the spacing of
its binade, ties to the even significand (R9). -/
def roundUnits (n d : Nat) : Nat :=
  let k := binadeShift (n / d)
  divNearestEven n (d * 2 ^ k) * 2 ^ k

/-- `RN` with binary64's overflow to infinity (R9, R82). Subnormal results are kept (R82). -/
def roundFlt (neg : Bool) (n d : Nat) : Flt :=
  if roundUnits n d < unitsOverflow then .fin neg (roundUnits n d) else .inf neg

/-- The binary64 pattern of a value (R81). A finite `mag` below `2^53` units is its own pattern; above it, the
exponent field counts the shift. -/
def f64Pattern : Flt → F64
  | .nan => Config.nanPattern
  | .inf neg => BitVec.ofBool neg ++ (0x7FF0000000000000#63)
  | .fin neg mag =>
      BitVec.ofBool neg ++ BitVec.ofNat 63 (binadeShift mag * 2 ^ 52 + mag / 2 ^ binadeShift mag)

/-- `isNaN(x)` (R9). -/
def Flt.isNaN : Flt → Bool
  | .nan => true
  | .inf _ => false
  | .fin _ _ => false

/-- `isFinite(x)` (R9). -/
def Flt.isFinite : Flt → Bool
  | .nan => false
  | .inf _ => false
  | .fin _ _ => true

/-- `real(x)` of a finite value, in units (R9); zero for the others, which no rule asks. -/
def Flt.units : Flt → Int
  | .fin neg mag => if neg then -(mag : Int) else mag
  | .inf _ => 0
  | .nan => 0

/-- The IEEE-754 ordered comparison `a < b` (R9): false when either side is a NaN; `−0.0` equals `+0.0`. -/
def Flt.lt : Flt → Flt → Bool
  | .nan, _ => false
  | .inf _, .nan => false
  | .fin _ _, .nan => false
  | .inf a, .inf b => a && !b
  | .inf a, .fin _ _ => a
  | .fin _ _, .inf b => !b
  | .fin na ma, .fin nb mb => decide ((Flt.fin na ma).units < (Flt.fin nb mb).units)

/-- The IEEE-754 ordered comparison `a <= b` (R9). -/
def Flt.le : Flt → Flt → Bool
  | .nan, _ => false
  | .inf _, .nan => false
  | .fin _ _, .nan => false
  | .inf a, .inf b => a || !b
  | .inf a, .fin _ _ => a
  | .fin _ _, .inf b => !b
  | .fin na ma, .fin nb mb => decide ((Flt.fin na ma).units ≤ (Flt.fin nb mb).units)

/-- Negation of the sign. -/
def Flt.neg : Flt → Flt
  | .nan => .nan
  | .inf s => .inf !s
  | .fin s m => .fin (!s) m

/-- `RN` of a whole number of units: the rounding of an exact sum. An exact zero takes the sign given. -/
def roundSum (z : Int) (zeroSign : Bool) : Flt :=
  if z = 0 then .fin zeroSign 0 else roundFlt (decide (z < 0)) z.natAbs 1

/-- `fadd(a,b) = RN(a + b)` (R9, R82). An exact zero sum is `+0.0` but for two negative zeros. -/
def fadd : Flt → Flt → Flt
  | .nan, _ => .nan
  | .inf _, .nan => .nan
  | .fin _ _, .nan => .nan
  | .inf a, .inf b => if a = b then .inf a else .nan
  | .inf a, .fin _ _ => .inf a
  | .fin _ _, .inf b => .inf b
  | .fin na ma, .fin nb mb => roundSum ((Flt.fin na ma).units + (Flt.fin nb mb).units) (na && nb)

/-- `fsub(a,b) = RN(a − b)` (R9, R82). -/
def fsub (a b : Flt) : Flt := fadd a b.neg

/-- `fmul(a,b) = RN(a × b)` (R9, R82). -/
def fmul : Flt → Flt → Flt
  | .nan, _ => .nan
  | .inf _, .nan => .nan
  | .fin _ _, .nan => .nan
  | .inf a, .inf b => .inf (a != b)
  | .inf a, .fin nb mb => if mb = 0 then .nan else .inf (a != nb)
  | .fin na ma, .inf b => if ma = 0 then .nan else .inf (na != b)
  | .fin na ma, .fin nb mb => roundFlt (na != nb) (ma * mb) unitsPerOne

/-- `fdiv(a,b) = RN(a ÷ b)` (R9, R82). -/
def fdiv : Flt → Flt → Flt
  | .nan, _ => .nan
  | .inf _, .nan => .nan
  | .fin _ _, .nan => .nan
  | .inf _, .inf _ => .nan
  | .inf a, .fin nb _ => .inf (a != nb)
  | .fin na _, .inf b => .fin (na != b) 0
  | .fin na ma, .fin nb mb =>
      if mb = 0 then (if ma = 0 then .nan else .inf (na != nb)) else roundFlt (na != nb) (ma * unitsPerOne) mb

/-- A natural number as a binary64 value: exact below `2^53`, which every code and every `N(bits)` of R83 is. -/
def fltOfNat (n : Nat) : Flt := roundFlt false (n * unitsPerOne) 1

/-- A whole number of at most 32 bits as a binary64 value, exact (R116). -/
def fltOfInt (z : Int) : Flt := .fin (decide (z < 0)) (z.natAbs * unitsPerOne)

/-! ## Narrowing to binary32 (spec/45_facade_pseudo_ops.md R174; log 13) -/

/-- The places by which a binary32 significand must be shifted left to reach a value of `mag` units: 24 significant bits,
and never below the least subnormal, `2^-149`, which is `2^925` units. -/
def binadeShift32 (mag : Nat) : Nat := max 925 (Nat.log2 mag - 23)

/-- The whole number of units nearest `mag` that binary32 holds, the exponent unbounded above, ties to the even
significand (R174). -/
def roundUnits32 (mag : Nat) : Nat := divNearestEven mag (2 ^ binadeShift32 mag) * 2 ^ binadeShift32 mag

/-- The units at which binary32 overflows: `2^128`. -/
def unitsOverflow32 : Nat := 2 ^ 1202

/-- The binary32 pattern of a whole number of units that binary32 holds (R81). -/
def f32Pattern (neg : Bool) (mag : Nat) : F32 :=
  BitVec.ofBool neg ++ BitVec.ofNat 31 ((binadeShift32 mag - 925) * 2 ^ 23 + mag / 2 ^ binadeShift32 mag)

/-- A value narrowed to binary32, to nearest with ties to even (R174); a NaN becomes a quiet NaN whose sign and payload
are the bits given (log 22). -/
def narrow (nanBits : BitVec 23) : Flt → F32
  | .nan => nanBits.extractLsb' 22 1 ++ 0x1FF#9 ++ nanBits.extractLsb' 0 22
  | .inf neg => BitVec.ofBool neg ++ 0x7F800000#31
  | .fin neg mag =>
      if roundUnits32 mag < unitsOverflow32 then f32Pattern neg (roundUnits32 mag)
      else BitVec.ofBool neg ++ 0x7F800000#31

/-- The whole number a value is, if it is one. -/
def wholeNumber : Flt → Option Int
  | .fin neg mag =>
      if mag % unitsPerOne = 0 then some (if neg then -(mag / unitsPerOne : Nat) else (mag / unitsPerOne : Nat))
      else none
  | .inf _ => none
  | .nan => none

/-- The integer nearest `mag` units, made on the exact value, a tie as the rule says (R84). -/
def roundTieUnits (rule : Tie) (mag : Nat) : Nat :=
  let q := mag / unitsPerOne
  let r := mag % unitsPerOne
  if 2 * r < unitsPerOne then q
  else if unitsPerOne < 2 * r then q + 1
  else
    match rule with
    | .halfAwayFromZero => q + 1
    | .halfToEven => if q % 2 = 0 then q else q + 1

/-- `round_tie(t)` for a finite `t >= 0` (R84). For other `t` the spec states no result, and none is asked for: the
quotients of R86 and R87 are finite and not negative (R89, R91; log 12). -/
def roundTie (rule : Tie) : Flt → Nat
  | .fin _ mag => roundTieUnits rule mag
  | .inf _ => Config.roundTieUnstated
  | .nan => Config.roundTieUnstated

end Sys2Proof.Machine
end

