-- ==== Sys2Proof/Machine/Operands.lean ====
section
/-! DEFINITION. The operand forms: the `bits` operand (spec/40_quantization.md R83) and the value of a parameter write
by its format (spec/42_parameter_table.md R116, R121). -/

namespace Sys2Proof.Machine

/-- `N(bits) = 2^bits − 1`, the largest code (R83). -/
def codeMax (bits : BitVec 8) : Nat := 2 ^ bits.toNat - 1

/-- Whether `val32` fits its format (R116, column "fits when"). -/
def valueFits : Fmt → BitVec 32 → Bool
  | .u8, v => decide (v.toNat ≤ 255)
  | .i16, v => decide (-32768 ≤ v.toInt) && decide (v.toInt ≤ 32767)
  | .i32, _ => true
  | .f32, _ => true

/-- `num(fmt, val32)`, the numeric image used for the bounds check only (R116). -/
def valueNum : Fmt → BitVec 32 → Flt
  | .u8, v => fltOfInt v.toNat
  | .i16, v => fltOfInt v.toInt
  | .i32, v => fltOfInt v.toInt
  | .f32, v => f32Value v

/-- Byte `k` of `val32`, bits `8k+7` to `8k`. -/
def valByte (v : BitVec 32) (k : Nat) : Byte := v.extractLsb' (8 * k) 8

/-- `pser(fmt, val32)`: the four bytes of the value field, in `PVAL_ORDER` within the value's own width (R121). -/
def serialise : Order → Fmt → BitVec 32 → Quad
  | _, .u8, v => ⟨valByte v 0, 0, 0, 0⟩
  | .little, .i16, v => ⟨valByte v 0, valByte v 1, 0, 0⟩
  | .big, .i16, v => ⟨valByte v 1, valByte v 0, 0, 0⟩
  | .little, .i32, v => ⟨valByte v 0, valByte v 1, valByte v 2, valByte v 3⟩
  | .big, .i32, v => ⟨valByte v 3, valByte v 2, valByte v 1, valByte v 0⟩
  | .little, .f32, v => ⟨valByte v 0, valByte v 1, valByte v 2, valByte v 3⟩
  | .big, .f32, v => ⟨valByte v 3, valByte v 2, valByte v 1, valByte v 0⟩

/-- The way back, the host's part (R123): the 32-bit word a value field stands for, by its format and byte order. -/
def reinterpret : Order → Fmt → Quad → BitVec 32
  | _, .u8, q => q.v0.zeroExtend 32
  | .little, .i16, q => (q.v1 ++ q.v0).signExtend 32
  | .big, .i16, q => (q.v0 ++ q.v1).signExtend 32
  | .little, .i32, q => q.v3 ++ q.v2 ++ q.v1 ++ q.v0
  | .big, .i32, q => q.v0 ++ q.v1 ++ q.v2 ++ q.v3
  | .little, .f32, q => q.v3 ++ q.v2 ++ q.v1 ++ q.v0
  | .big, .f32, q => q.v0 ++ q.v1 ++ q.v2 ++ q.v3

end Sys2Proof.Machine
end

