-- ==== Sys2Proof/Machine/State.lean ====
section
/-! DEFINITION. The state of the machine: the configuration, the requests the host presents and the response bundle
(spec/10_state.md R12, R15 to R17, R22), and why a step can stop. -/

namespace Sys2Proof.Machine

/-- The causes of a status other than `OK` (spec/60_exceptions.md R185). -/
inductive Raise where
  /-- Raised by QENCS and FB_WRPARAM (R186). -/
  | rangeError
  /-- Raised by FP_PARSE and its arms (R187, R151). -/
  | protocolError
  /-- Raised by QENC, QENCS, QDEC, FB_WRPARAM and FB_MOTION (R188). -/
  | invalidOperand
  /-- Raised by PTLOOK (R192). -/
  | notFound
  /-- Raised by the two unassigned `op` codes (R189). -/
  | badOp
  deriving DecidableEq, Repr

/-- The result fields of a transaction whose status is `OK`, as the tagged record of R17: a constructor carries the
fields its operation names and no other. -/
inductive Result where
  /-- `q`, of QENC and QENCS. -/
  | code (q : BitVec 32)
  /-- `x`, of QDEC. -/
  | real (x : F64)
  /-- `id_out` alone, of IDPACK. -/
  | ident (idOut : Ident)
  /-- `opcode_o`, `data16_o`, `target_o`, of IDUNPK_REQ. -/
  | requestFields (opcode : BitVec 5) (data16 : BitVec 16) (target : Byte)
  /-- `opcode_o`, `faults_o`, `mode_o`, `motor_o`, `master_o`, of IDUNPK_FB. -/
  | feedbackFields (opcode : BitVec 5) (faults : BitVec 6) (mode : BitVec 2) (motor master : Byte)
  /-- `d_found = 1`, `d_fmt`, `d_bounded`, and `d_min`, `d_max` where `d_bounded = 1`, of PTLOOK (R119). -/
  | descriptor (fmt : Fmt) (bounds : Option Bounds)
  /-- `id_out`, `dlc_out`, `P`, of the builders. -/
  | frame (idOut : Ident) (dlcOut : BitVec 4) (P : Buffer)
  /-- `kind = MotorFeedback`, of FP_PARSE (R152). -/
  | motorFeedback (opcode : BitVec 5) (faults : BitVec 6) (mode : BitVec 2) (motor master : Byte)
      (angle velocity torque temperature : F64)
  /-- `kind = ParameterFeedback`, of FP_PARSE (R153). -/
  | parameterFeedback (opcode : BitVec 5) (index : BitVec 16) (raw : Quad)
  /-- `kind = Fault`, of FP_PARSE (R154). -/
  | fault (opcode : BitVec 5) (motor : Byte) (raw : Buffer) (len : BitVec 4)
  /-- `kind = Unknown`, of FP_PARSE (R155). -/
  | unknown (opcode : BitVec 5)
  deriving DecidableEq, Repr

/-- The response bundle (R17): `status = OK` with the named result fields, or another status with no result field at
all (R190). -/
inductive Response where
  | ok (result : Result)
  | raised (cause : Raise)
  deriving DecidableEq, Repr

/-- The state of the machine. -/
structure State where
  /-- `cfg`, which no operation changes (R15). -/
  cfg : Cfg
  /-- The requests the host has presented and CGC has not run, in issue order; the head is on the request ports
  (R13, R16, R44). The model's own field (log 1). -/
  requests : List Request
  /-- The response bundle of the last transaction; `none` is "no response yet" (R17, R22). -/
  resp : Option Response
  deriving DecidableEq, Repr

/-- Why the machine stops with a fault: never. Every error of CGC is a status in the response (R190, R193), so there
is no constructor; this is safe, since no step of the machine is left out by it. -/
inductive Fault where
  deriving DecidableEq, Repr

/-- Why a step has no meaning. -/
inductive Refusal where
  /-- An instruction of the table that has no meaning in the model. Raised by no arm of `exec`: every row has its
  meaning. Safe. -/
  | notModelled (mnemonic : String)
  /-- Raised by `step` on a frame of the request layout that matches no `REQ` row of the table (R64): it is no
  instruction, and the spec gives it no effect as one (log 9). Safe: the model stops. -/
  | noReqRow (id : Ident)
  deriving DecidableEq, Repr

/-- The machine right after reset (R22, R230): `cfg` at its configured constants, here the defaults of R8 and R15 with
the suggested parameter table (DESIGN CHOICE, log 3, log 4); no request presented (log 1); no response yet. -/
def State.reset : State where
  cfg := Config.default
  requests := []
  resp := none

end Sys2Proof.Machine
end

