-- ==== Sys2Proof/Machine/Ops.lean ====
section
/-! DEFINITION. The end of a transaction: completing it with results, and raising a status, the only exception CGC has
(spec/60_exceptions.md R190, R193). There is no return from an exception: nothing is saved and nothing restored
(R194). -/

namespace Sys2Proof.Machine

/-- The response bundle replaced by this transaction's (R12, R17). Nothing else of the state is written: CGC has
nothing else to write to (R20, R190). -/
def State.respond (s : State) (r : Response) : State := { s with resp := some r }

/-- `return (...)`: the transaction ends with status `OK` and the results named (R9). -/
def complete (r : Result) (s : State) : Host.Outcome State Fault Refusal := .next (s.respond (.ok r))

/-- `raise S(info)`: the transaction ends at that point, the response carries the status and no result field, and
nothing is written anywhere (R190). -/
def raise (e : Raise) (s : State) : Host.Outcome State Fault Refusal := .next (s.respond (.raised e))

/-- The end of an operation, whichever way it ends. -/
def settle (a : Except Raise Result) (s : State) : Host.Outcome State Fault Refusal :=
  match a with
  | .ok r => complete r s
  | .error e => raise e s

end Sys2Proof.Machine
end

