-- ==== Sys2Proof/Machine/Quantization.lean ====
section
/-! DEFINITION. The quantization unit QU (spec/40_quantization.md): QENC, QENCS, QDEC. -/

namespace Sys2Proof.Machine

/-- `qvalid(min, max, bits)` (R85). -/
def qvalid (c : Cfg) (mn mx : F64) (bits : BitVec 8) : Bool :=
  (f64Value mn).isFinite && (f64Value mx).isFinite && (f64Value mn).lt (f64Value mx)
    && decide (c.bitsMin.toNat ≤ bits.toNat) && decide (bits.toNat ≤ c.bitsMax.toNat)
    && (fsub (f64Value mx) (f64Value mn)).isFinite
    && (fmul (fsub (f64Value mx) (f64Value mn)) (fltOfNat (codeMax bits))).isFinite

/-- The clamp of QENC (R86): `min` below it, `max` above it, the value itself otherwise. -/
def clamp (v mn mx : Flt) : Flt := if v.lt mn then mn else if mx.lt v then mx else v

/-- The quotient `t` of R86 and R87: `fdiv(fmul(fsub(v, min), N), fsub(max, min))`, multiply first, divide second. -/
def quotient (v mn mx : Flt) (bits : BitVec 8) : Flt :=
  fdiv (fmul (fsub v mn) (fltOfNat (codeMax bits))) (fsub mx mn)

/-- QENC on a value (R86): clamps, never rejects; a NaN is refused. -/
def qencValue (c : Cfg) (v : Flt) (mn mx : F64) (bits : BitVec 8) : Except Raise (BitVec 32) :=
  if !qvalid c mn mx bits then .error .invalidOperand
  else if v.isNaN then .error .invalidOperand
  else
    .ok (BitVec.ofNat 32
      (roundTie c.roundTie (quotient (clamp v (f64Value mn) (f64Value mx)) (f64Value mn) (f64Value mx) bits)))

/-- QENCS on a value (R87): rejects what is not inside the closed interval, a NaN included; 16 bits. -/
def qencsValue (c : Cfg) (v : Flt) (mn mx : F64) : Except Raise (BitVec 32) :=
  if !qvalid c mn mx Config.qbits then .error .invalidOperand
  else if !((f64Value mn).le v && v.le (f64Value mx)) then .error .rangeError
  else .ok (BitVec.ofNat 32 (roundTie c.roundTie (quotient v (f64Value mn) (f64Value mx) Config.qbits)))

/-- The value QDEC computes (R88): `fadd(fdiv(fmul(r, fsub(max, min)), N), min)` with `raw` clamped to `N`. -/
def dequantised (raw : BitVec 32) (mn mx : Flt) (bits : BitVec 8) : Flt :=
  fadd
    (fdiv (fmul (fltOfNat (if codeMax bits < raw.toNat then codeMax bits else raw.toNat)) (fsub mx mn))
      (fltOfNat (codeMax bits)))
    mn

/-- QDEC (R88). -/
def qdecValue (c : Cfg) (raw : BitVec 32) (mn mx : F64) (bits : BitVec 8) : Except Raise F64 :=
  if !qvalid c mn mx bits then .error .invalidOperand
  else .ok (f64Pattern (dequantised raw (f64Value mn) (f64Value mx) bits))

/-- QENC: quantize with clamping (R86). -/
def execQenc (value mn mx : F64) (bits : BitVec 8) (s : State) : Host.Outcome State Fault Refusal :=
  settle (do let q ← qencValue s.cfg (f64Value value) mn mx bits; pure (.code q)) s

/-- QENCS: quantize with rejection (R87). -/
def execQencs (value mn mx : F64) (s : State) : Host.Outcome State Fault Refusal :=
  settle (do let q ← qencsValue s.cfg (f64Value value) mn mx; pure (.code q)) s

/-- QDEC: dequantize (R88). -/
def execQdec (raw : BitVec 32) (mn mx : F64) (bits : BitVec 8) (s : State) : Host.Outcome State Fault Refusal :=
  settle (do let x ← qdecValue s.cfg raw mn mx bits; pure (.real x)) s

end Sys2Proof.Machine
end

