-- ==== Sys2Proof/Machine/ParamTable.lean ====
section
/-! DEFINITION. The parameter table (spec/42_parameter_table.md): PTLOOK, and the validation a parameter write
passes. -/

namespace Sys2Proof.Machine

/-- The descriptor with an index. Indices are distinct (R118); in a table that breaks this the first one is taken
(log 14). -/
def lookup (table : List Descriptor) (index : BitVec 16) : Option Descriptor :=
  match table with
  | [] => none
  | d :: ds => if d.index = index then some d else lookup ds index

/-- PTLOOK: look up a descriptor by index (R119). -/
def execPtlook (index : BitVec 16) (s : State) : Host.Outcome State Fault Refusal :=
  match lookup s.cfg.paramTable index with
  | some d => complete (.descriptor d.fmt d.bounds) s
  | none => raise .notFound s

/-- `pvalidate(fmt, bounded, min, max, val32)` (R120): the bounds first, then the fit, then the bounds check, whose
code is discarded. -/
def pvalidate (c : Cfg) (fmt : Fmt) (bounds : Option Bounds) (val32 : BitVec 32) : Except Raise Unit :=
  match bounds with
  | none => if !valueFits fmt val32 then .error .rangeError else .ok ()
  | some b =>
      if !qvalid c b.min b.max Config.qbits then .error .invalidOperand
      else if !valueFits fmt val32 then .error .rangeError
      else do
        let _ ← qencsValue c (valueNum fmt val32) b.min b.max
        pure ()

end Sys2Proof.Machine
end

