-- ==== Sys2Proof/Machine/FrameBuilder.lean ====
section
/-! DEFINITION. The frame builder (spec/43_frame_builder.md): FB_ENABLE, FB_DISABLE, FB_SETZERO, FB_WRPARAM,
FB_RDPARAM, FB_MOTION, and the frame of each kind put together from its fields (spec/30_encoding.md R54 to R59). -/

namespace Sys2Proof.Machine

/-- The identifier of every built frame but the motion-control frame (R130): `data16 = zext_16(master)`. -/
def builtId (opcode : WireOpcode) (master target : Byte) : Ident :=
  packId (wireCode opcode) (masterData16 master) target

/-- The MotorEnable frame: no payload (R57 `NONE`, R131). -/
def enableFrame (master target : Byte) : Result := .frame (builtId .motorEnable master target) 0#4 zeroBuffer

/-- The MotorStop frame: eight zero bytes (R57 `ZERO8`, R132). -/
def stopFrame (master target : Byte) : Result := .frame (builtId .motorStop master target) 8#4 zeroBuffer

/-- The SetMechanicalZero frame: one byte `01` (R57 `ONE`, R133). -/
def setZeroFrame (master target : Byte) : Result :=
  .frame (builtId .setMechanicalZero master target) 1#4 (memWrite zeroBuffer 0 [1#8])

/-- The SingleParamRead frame (R54, R122, R135): a zero value field. -/
def readFrame (c : Cfg) (master target : Byte) (index : BitVec 16) : Result :=
  .frame (builtId .singleParamRead master target) 8#4 (paramBuffer c index ⟨0, 0, 0, 0⟩)

/-- The SingleParamWrite frame (R54, R122, R134). -/
def writeFrame (c : Cfg) (master target : Byte) (index : BitVec 16) (v : Quad) : Result :=
  .frame (builtId .singleParamWrite master target) 8#4 (paramBuffer c index v)

/-- The MotorControl frame (R51, R55, R136): the torque code in `data16`. -/
def motionFrame (c : Cfg) (target : Byte) (tq aq vq pq dq : BitVec 16) : Result :=
  .frame (packId (wireCode .motorControl) tq target) 8#4 (motionBuffer c aq vq pq dq)

/-- FB_ENABLE: build the enable frame (R131). -/
def execFbEnable (target master : Byte) (s : State) : Host.Outcome State Fault Refusal :=
  complete (enableFrame master target) s

/-- FB_DISABLE: build the stop frame (R132). -/
def execFbDisable (target master : Byte) (s : State) : Host.Outcome State Fault Refusal :=
  complete (stopFrame master target) s

/-- FB_SETZERO: build the set-mechanical-zero frame (R133). -/
def execFbSetzero (target master : Byte) (s : State) : Host.Outcome State Fault Refusal :=
  complete (setZeroFrame master target) s

/-- FB_WRPARAM: build a single-parameter write (R134): validate, serialise, put together. -/
def execFbWrparam (target master : Byte) (index : BitVec 16) (fmt : Fmt) (bounds : Option Bounds)
    (val32 : BitVec 32) (s : State) : Host.Outcome State Fault Refusal :=
  settle (do
    pvalidate s.cfg fmt bounds val32
    pure (writeFrame s.cfg master target index (serialise s.cfg.pvalOrder fmt val32))) s

/-- FB_RDPARAM: build a single-parameter read request (R135). -/
def execFbRdparam (target master : Byte) (index : BitVec 16) (s : State) : Host.Outcome State Fault Refusal :=
  complete (readFrame s.cfg master target index) s

/-- A protocol field: QENC over its own range at 16 bits, narrowed with `trunc_16` (R59 (b), (c), R136). -/
def quantField (c : Cfg) (x mn mx : F64) : Except Raise (BitVec 16) := do
  let q ← qencValue c (f64Value x) mn mx Config.qbits
  pure (q.truncate 16)

/-- FB_MOTION: build the motion-control frame (R136). An out-of-range operand is clamped, a NaN refused; the operands
are examined in the order torque, angle, velocity, kp, kd (R191). -/
def execFbMotion (target : Byte) (torque angle velocity kp kd : F64) (s : State) :
    Host.Outcome State Fault Refusal :=
  settle (do
    let tq ← quantField s.cfg torque Config.tMin Config.tMax
    let aq ← quantField s.cfg angle Config.pMin Config.pMax
    let vq ← quantField s.cfg velocity Config.vMin Config.vMax
    let pq ← quantField s.cfg kp Config.kpMin Config.kpMax
    let dq ← quantField s.cfg kd Config.kdMin Config.kdMax
    pure (motionFrame s.cfg target tq aq vq pq dq)) s

end Sys2Proof.Machine
end

