-- ==== Sys2Proof/Machine/FrameParser.lean ====
section
/-! DEFINITION. The frame parser (spec/44_frame_parser.md): FP_PARSE and its four arms. -/

namespace Sys2Proof.Machine

/-- A feedback field: QDEC of a two-byte field over its range at 16 bits (R56, R152). -/
def feedbackField (c : Cfg) (B : Buffer) (off : Nat) (mn mx : F64) : Except Raise F64 :=
  qdecValue c ((readU16 c.fbOrder B off).zeroExtend 32) mn mx Config.qbits

/-- Arm MotorFeedback (R152). -/
def armMotorFeedback (c : Cfg) (id : Ident) (dlc : BitVec 4) (B : Buffer) : Except Raise Result :=
  if dlc ≠ 8#4 then .error .protocolError
  else do
    let angle ← feedbackField c B 0 Config.pMin Config.pMax
    let velocity ← feedbackField c B 2 Config.vMin Config.vMax
    let torque ← feedbackField c B 4 Config.tMin Config.tMax
    let temperature ← feedbackField c B 6 c.tempMin c.tempMax
    pure (.motorFeedback (wireCode .motorFeedback) (idFaults id) (idMode id) (idMid id) (idLow id)
      angle velocity torque temperature)

/-- Arm ParameterFeedback (R153): bytes 2 to 3 are not read. -/
def armParameterFeedback (c : Cfg) (dlc : BitVec 4) (B : Buffer) : Except Raise Result :=
  if dlc ≠ 8#4 then .error .protocolError
  else pure (.parameterFeedback (wireCode .singleParamRead) (readU16 c.pidxRxOrder B 0) (readQuad B))

/-- The bytes of a buffer below a length, zeros from there on (R154: bytes at `dlc` and above are `00` whatever the
host drove). -/
def keepBelow (B : Buffer) (len : Nat) : Buffer where
  b0 := if 0 < len then B.b0 else 0
  b1 := if 1 < len then B.b1 else 0
  b2 := if 2 < len then B.b2 else 0
  b3 := if 3 < len then B.b3 else 0
  b4 := if 4 < len then B.b4 else 0
  b5 := if 5 < len then B.b5 else 0
  b6 := if 6 < len then B.b6 else 0
  b7 := if 7 < len then B.b7 else 0

/-- Arm Fault (R154): every length 0 to 8 is accepted. -/
def armFault (id : Ident) (dlc : BitVec 4) (B : Buffer) : Except Raise Result :=
  pure (.fault (wireCode .faultFeedback) (idMid id) (keepBelow B dlc.toNat) dlc)

/-- Arm Unknown (R155): the payload is not read. -/
def armUnknown (id : Ident) : Except Raise Result := pure (.unknown (idOpcode id))

/-- The length check that comes before the dispatch (R150, R151). -/
def lengthChecked (dlc : BitVec 4) (arm : Except Raise Result) : Except Raise Result :=
  if 8 < dlc.toNat then .error .protocolError else arm

/-- FP_PARSE's dispatch on the wire opcode (R150). -/
def parseFrame (c : Cfg) (id : Ident) (dlc : BitVec 4) (B : Buffer) : Except Raise Result :=
  lengthChecked dlc
    (if idOpcode id = 2#5 then armMotorFeedback c id dlc B
     else if idOpcode id = 17#5 then armParameterFeedback c dlc B
     else if idOpcode id = 21#5 then armFault id dlc B
     else armUnknown id)

/-- FP_PARSE: classify and decode one inbound frame (R150). -/
def execFpParse (id : Ident) (dlc : BitVec 4) (B : Buffer) (s : State) : Host.Outcome State Fault Refusal :=
  settle (parseFrame s.cfg id dlc B) s

/-- FP_PARSE.MotorFeedback: the arm for wire opcode 2, on an inbound frame (R152; log 5). -/
def execFpMotorFeedback (id : Ident) (dlc : BitVec 4) (B : Buffer) (s : State) : Host.Outcome State Fault Refusal :=
  settle (lengthChecked dlc (armMotorFeedback s.cfg id dlc B)) s

/-- FP_PARSE.ParameterFeedback: the arm for wire opcode 17, on an inbound frame (R153; log 5). The identifier holds
nothing the arm reads but the opcode that selected it. -/
def execFpParameterFeedback (_id : Ident) (dlc : BitVec 4) (B : Buffer) (s : State) :
    Host.Outcome State Fault Refusal :=
  settle (lengthChecked dlc (armParameterFeedback s.cfg dlc B)) s

/-- FP_PARSE.Fault: the arm for wire opcode 21, on an inbound frame (R154; log 5). -/
def execFpFault (id : Ident) (dlc : BitVec 4) (B : Buffer) (s : State) : Host.Outcome State Fault Refusal :=
  settle (lengthChecked dlc (armFault id dlc B)) s

/-- FP_PARSE.Unknown: the arm for every other wire opcode, on an inbound frame (R155; log 5). -/
def execFpUnknown (id : Ident) (dlc : BitVec 4) (_B : Buffer) (s : State) : Host.Outcome State Fault Refusal :=
  settle (lengthChecked dlc (armUnknown id)) s

end Sys2Proof.Machine
end

