-- ==== Sys2Proof/Machine/Identifier.lean ====
section
/-! DEFINITION. The arbitration-identifier unit IDU (spec/41_arbitration_id.md): IDPACK, IDUNPK_REQ, IDUNPK_FB. -/

namespace Sys2Proof.Machine

/-- IDPACK: pack a request identifier (R102). Every opcode value is accepted. -/
def execIdpack (opcode : BitVec 5) (data16 : BitVec 16) (target : Byte) (s : State) :
    Host.Outcome State Fault Refusal :=
  complete (.ident (packId opcode data16 target)) s

/-- IDUNPK_REQ: unpack an identifier in the request layout (R103). Total on all identifiers. -/
def execIdunpkReq (id : Ident) (s : State) : Host.Outcome State Fault Refusal :=
  complete (.requestFields (idOpcode id) (idData16 id) (idLow id)) s

/-- IDUNPK_FB: unpack an identifier in the feedback layout (R104). Total on all identifiers. -/
def execIdunpkFb (id : Ident) (s : State) : Host.Outcome State Fault Refusal :=
  complete (.feedbackFields (idOpcode id) (idFaults id) (idMode id) (idMid id) (idLow id)) s

end Sys2Proof.Machine
end

