-- ==== Sys2Proof/Machine/Reserved.lean ====
section
/-! DEFINITION. The two unassigned values of the `op` port (spec/60_exceptions.md R189). -/

namespace Sys2Proof.Machine

/-- RESERVED_OP_14: `BadOp`, no operand read (R189). -/
def execReservedOp14 (s : State) : Host.Outcome State Fault Refusal := raise .badOp s

/-- RESERVED_OP_15: `BadOp`, no operand read (R189). -/
def execReservedOp15 (s : State) : Host.Outcome State Fault Refusal := raise .badOp s

end Sys2Proof.Machine
end

