-- ==== Sys2Proof/Machine/WireFrames.lean ====
section
/-! DEFINITION. The outbound frames of the request layout as instructions, the nine `REQ` rows of
spec/opcode_table.json (spec/30_encoding.md R58, R64): each is the frame of its kind put together from its identifier
and payload fields, which is what the row's builder answers (log 6). -/

namespace Sys2Proof.Machine

/-- WIRE_MotorControl: the frame FB_MOTION builds, from its codes (R51, R55, R136). -/
def execWireMotorControl (data16 : BitVec 16) (target : Byte) (aq vq pq dq : BitVec 16) (s : State) :
    Host.Outcome State Fault Refusal :=
  complete (motionFrame s.cfg target data16 aq vq pq dq) s

/-- WIRE_MotorEnable: the frame FB_ENABLE builds (R131). -/
def execWireMotorEnable (master target : Byte) (s : State) : Host.Outcome State Fault Refusal :=
  complete (enableFrame master target) s

/-- WIRE_MotorStop: the frame FB_DISABLE builds (R132). -/
def execWireMotorStop (master target : Byte) (s : State) : Host.Outcome State Fault Refusal :=
  complete (stopFrame master target) s

/-- WIRE_SetMechanicalZero: the frame FB_SETZERO builds (R133). -/
def execWireSetMechanicalZero (master target : Byte) (s : State) : Host.Outcome State Fault Refusal :=
  complete (setZeroFrame master target) s

/-- WIRE_SingleParamRead: the frame FB_RDPARAM builds (R135). -/
def execWireSingleParamRead (master target : Byte) (index : BitVec 16) (s : State) :
    Host.Outcome State Fault Refusal :=
  complete (readFrame s.cfg master target index) s

/-- WIRE_SingleParamWrite: the frame FB_WRPARAM builds, from its serialised value field (R134). -/
def execWireSingleParamWrite (master target : Byte) (index : BitVec 16) (v : Quad) (s : State) :
    Host.Outcome State Fault Refusal :=
  complete (writeFrame s.cfg master target index v) s

/-- An outbound frame the source gives no payload for: its identifier alone, formed as IDPACK forms it (R60, R137,
R180: "CG fixes nothing about that payload"; log 7). -/
def bareIdentifier (opcode : WireOpcode) (data16 : BitVec 16) (target : Byte) : Result :=
  .ident (packId (wireCode opcode) data16 target)

/-- WIRE_GetDeviceId: enumerated, no builder (R60, R137). -/
def execWireGetDeviceId (data16 : BitVec 16) (target : Byte) (s : State) : Host.Outcome State Fault Refusal :=
  complete (bareIdentifier .getDeviceId data16 target) s

/-- WIRE_SetMotorCanId: enumerated, no builder (R60, R137). -/
def execWireSetMotorCanId (data16 : BitVec 16) (target : Byte) (s : State) : Host.Outcome State Fault Refusal :=
  complete (bareIdentifier .setMotorCanId data16 target) s

/-- WIRE_ParamTableWrite: enumerated, no builder (R60, R137). -/
def execWireParamTableWrite (data16 : BitVec 16) (target : Byte) (s : State) : Host.Outcome State Fault Refusal :=
  complete (bareIdentifier .paramTableWrite data16 target) s

end Sys2Proof.Machine
end

