-- ==== Sys2Proof/Machine/Dispatch.lean ====
section
/-! DEFINITION. The dispatch: one arm per row of spec/opcode_table.json, each one call of its meaning. -/

namespace Sys2Proof.Machine

def exec (i : Instr) (s : State) : Host.Outcome State Fault Refusal :=
  match i with
  | .qenc value mn mx bits => Sys2Proof.Machine.execQenc value mn mx bits s
  | .qencs value mn mx => Sys2Proof.Machine.execQencs value mn mx s
  | .qdec raw mn mx bits => Sys2Proof.Machine.execQdec raw mn mx bits s
  | .idpack opcode data16 target => Sys2Proof.Machine.execIdpack opcode data16 target s
  | .idunpkReq id => Sys2Proof.Machine.execIdunpkReq id s
  | .idunpkFb id => Sys2Proof.Machine.execIdunpkFb id s
  | .ptlook index => Sys2Proof.Machine.execPtlook index s
  | .fbEnable target master => Sys2Proof.Machine.execFbEnable target master s
  | .fbDisable target master => Sys2Proof.Machine.execFbDisable target master s
  | .fbSetzero target master => Sys2Proof.Machine.execFbSetzero target master s
  | .fbWrparam target master index fmt bounds val32 => Sys2Proof.Machine.execFbWrparam target master index fmt bounds val32 s
  | .fbRdparam target master index => Sys2Proof.Machine.execFbRdparam target master index s
  | .fbMotion target torque angle velocity kp kd => Sys2Proof.Machine.execFbMotion target torque angle velocity kp kd s
  | .fpParse id dlc payload => Sys2Proof.Machine.execFpParse id dlc payload s
  | .reservedOp14 => Sys2Proof.Machine.execReservedOp14 s
  | .reservedOp15 => Sys2Proof.Machine.execReservedOp15 s
  | .fpMotorFeedback id dlc payload => Sys2Proof.Machine.execFpMotorFeedback id dlc payload s
  | .fpParameterFeedback id dlc payload => Sys2Proof.Machine.execFpParameterFeedback id dlc payload s
  | .fpFault id dlc payload => Sys2Proof.Machine.execFpFault id dlc payload s
  | .fpUnknown id dlc payload => Sys2Proof.Machine.execFpUnknown id dlc payload s
  | .wireMotorControl data16 target angleQ velocityQ kpQ kdQ => Sys2Proof.Machine.execWireMotorControl data16 target angleQ velocityQ kpQ kdQ s
  | .wireMotorEnable master target => Sys2Proof.Machine.execWireMotorEnable master target s
  | .wireMotorStop master target => Sys2Proof.Machine.execWireMotorStop master target s
  | .wireSetMechanicalZero master target => Sys2Proof.Machine.execWireSetMechanicalZero master target s
  | .wireSingleParamRead master target index => Sys2Proof.Machine.execWireSingleParamRead master target index s
  | .wireSingleParamWrite master target index value => Sys2Proof.Machine.execWireSingleParamWrite master target index value s
  | .wireGetDeviceId data16 target => Sys2Proof.Machine.execWireGetDeviceId data16 target s
  | .wireSetMotorCanId data16 target => Sys2Proof.Machine.execWireSetMotorCanId data16 target s
  | .wireParamTableWrite data16 target => Sys2Proof.Machine.execWireParamTableWrite data16 target s

end Sys2Proof.Machine
end

