-- ==== Sys2Proof/WellFormed.lean ====
section
/-! DEFINITION. Which instructions are well formed: the terms some request encodes. The ports are exactly as wide as the
fields (spec/41_arbitration_id.md R100), so only the parser's arms can be ill formed: an arm holds a frame whose wire
opcode selects it (spec/30_encoding.md R64, spec/44_frame_parser.md R152 to R155). -/

namespace Sys2Proof

/-- The wire opcodes that have an arm of their own in the parser (R150). -/
def hasOwnArm (opcode : BitVec 5) : Bool := opcode == 2#5 || opcode == 17#5 || opcode == 21#5

/-- The check of an instruction's fields. -/
def wellFormed : Instr → Bool
  | .qenc _ _ _ _ => true
  | .qencs _ _ _ => true
  | .qdec _ _ _ _ => true
  | .idpack _ _ _ => true
  | .idunpkReq _ => true
  | .idunpkFb _ => true
  | .ptlook _ => true
  | .fbEnable _ _ => true
  | .fbDisable _ _ => true
  | .fbSetzero _ _ => true
  | .fbWrparam _ _ _ _ _ _ => true
  | .fbRdparam _ _ _ => true
  | .fbMotion _ _ _ _ _ _ => true
  | .fpParse _ _ _ => true
  | .reservedOp14 => true
  | .reservedOp15 => true
  | .fpMotorFeedback id _ _ => Machine.idOpcode id == 2#5
  | .fpParameterFeedback id _ _ => Machine.idOpcode id == 17#5
  | .fpFault id _ _ => Machine.idOpcode id == 21#5
  | .fpUnknown id _ _ => !hasOwnArm (Machine.idOpcode id)
  | .wireMotorControl _ _ _ _ _ _ => true
  | .wireMotorEnable _ _ => true
  | .wireMotorStop _ _ => true
  | .wireSetMechanicalZero _ _ => true
  | .wireSingleParamRead _ _ _ => true
  | .wireSingleParamWrite _ _ _ _ => true
  | .wireGetDeviceId _ _ => true
  | .wireSetMotorCanId _ _ => true
  | .wireParamTableWrite _ _ => true

end Sys2Proof
end

