-- ==== Sys2Proof/Decode.lean ====
section
/-! DEFINITION. Reading a request as an instruction, and the encoder back: the operation selector and its operand ports
(spec/30_encoding.md R62, spec/10_state.md R16), the `FB` rows for inbound frames and the `REQ` rows for frames of the
request layout (spec/30_encoding.md R51 to R57, R64). -/

namespace Sys2Proof

/-- Why a request is no instruction. -/
inductive DecodeError where
  /-- A frame of the request layout whose identifier matches no `REQ` row of the table (R64). -/
  | noReqRow (id : Ident)
  deriving DecidableEq, Repr

open Machine in
/-- The operation selector (R62): each operation takes the operands it names and no other (R16). Total: the sixteen
codes are sixteen rows. -/
def decodeOp (p : Ports) : Instr :=
  match p.op.toNat with
  | 0 => .qenc p.value p.min p.max p.bits
  | 1 => .qencs p.value p.min p.max
  | 2 => .qdec p.raw p.min p.max p.bits
  | 3 => .idpack p.opcode p.data16 p.target
  | 4 => .idunpkReq p.id
  | 5 => .idunpkFb p.id
  | 6 => .ptlook p.index
  | 7 => .fbEnable p.target p.master
  | 8 => .fbDisable p.target p.master
  | 9 => .fbSetzero p.target p.master
  | 10 => .fbWrparam p.target p.master p.index (fmtOf p.fmt) (boundsOf p.bounded p.min p.max) p.val32
  | 11 => .fbRdparam p.target p.master p.index
  | 12 => .fbMotion p.target p.torque p.angle p.velocity p.kp p.kd
  | 13 => .fpParse p.id p.dlc p.B
  | 14 => .reservedOp14
  | _ => .reservedOp15

open Machine in
/-- The arm of the parser an inbound frame selects: the first `FB` row whose mask and match fit (R64), which is the
wire opcode's (R150). Total: the last row is a catch-all. -/
def decodeInbound (id : Ident) (dlc : BitVec 4) (B : Buffer) : Instr :=
  if idOpcode id = 2#5 then .fpMotorFeedback id dlc B
  else if idOpcode id = 17#5 then .fpParameterFeedback id dlc B
  else if idOpcode id = 21#5 then .fpFault id dlc B
  else .fpUnknown id dlc B

open Machine in
/-- The `REQ` row a frame of the request layout matches (R64): by the wire opcode, and, for the five rows whose mask is
`0x1FFF0000`, with identifier bits 23 to 16 zero (R59 (a)). The payload fields are read in the order they are built
in (R54, R55). -/
def decodeOutbound (c : Cfg) (id : Ident) (B : Buffer) : Except DecodeError Instr :=
  if idOpcode id = 1#5 then
    .ok (.wireMotorControl (idData16 id) (idLow id) (readU16 c.mcOrder B 0) (readU16 c.mcOrder B 2)
      (readU16 c.mcOrder B 4) (readU16 c.mcOrder B 6))
  else if idOpcode id = 0#5 then .ok (.wireGetDeviceId (idData16 id) (idLow id))
  else if idOpcode id = 7#5 then .ok (.wireSetMotorCanId (idData16 id) (idLow id))
  else if idOpcode id = 8#5 then .ok (.wireParamTableWrite (idData16 id) (idLow id))
  else if idHigh id ≠ 0#8 then .error (.noReqRow id)
  else if idOpcode id = 3#5 then .ok (.wireMotorEnable (idMid id) (idLow id))
  else if idOpcode id = 4#5 then .ok (.wireMotorStop (idMid id) (idLow id))
  else if idOpcode id = 6#5 then .ok (.wireSetMechanicalZero (idMid id) (idLow id))
  else if idOpcode id = 17#5 then .ok (.wireSingleParamRead (idMid id) (idLow id) (readU16 c.pidxTxOrder B 0))
  else if idOpcode id = 18#5 then
    .ok (.wireSingleParamWrite (idMid id) (idLow id) (readU16 c.pidxTxOrder B 0) (readQuad B))
  else .error (.noReqRow id)

/-- The decoder: the instruction a request is. -/
def decode (c : Cfg) : Request → Except DecodeError Instr
  | .op p => .ok (decodeOp p)
  | .inbound id dlc B => .ok (decodeInbound id dlc B)
  | .outbound id B => decodeOutbound c id B

/-! ## The encoder -/

/-- Every port at zero: what the encoder drives on the ports an operation does not name (R16 leaves them open, log
10). -/
def zeroPorts : Ports where
  op := 0
  value := 0
  min := 0
  max := 0
  bits := 0
  raw := 0
  opcode := 0
  data16 := 0
  target := 0
  master := 0
  id := 0
  dlc := 0
  B := Machine.zeroBuffer
  index := 0
  fmt := 0
  bounded := 0
  val32 := 0
  torque := 0
  angle := 0
  velocity := 0
  kp := 0
  kd := 0

/-- The `bounded`, `min` and `max` ports of optional bounds (R115). -/
def Ports.withBounds (p : Ports) : Option Bounds → Ports
  | none => p
  | some b => { p with bounded := 1#1, min := b.min, max := b.max }

open Machine in
/-- The request a well-formed instruction is presented by. -/
def encode (c : Cfg) : Instr → Request
  | .qenc value mn mx bits => .op { zeroPorts with op := 0#4, value := value, min := mn, max := mx, bits := bits }
  | .qencs value mn mx => .op { zeroPorts with op := 1#4, value := value, min := mn, max := mx }
  | .qdec raw mn mx bits => .op { zeroPorts with op := 2#4, raw := raw, min := mn, max := mx, bits := bits }
  | .idpack opcode data16 target =>
      .op { zeroPorts with op := 3#4, opcode := opcode, data16 := data16, target := target }
  | .idunpkReq id => .op { zeroPorts with op := 4#4, id := id }
  | .idunpkFb id => .op { zeroPorts with op := 5#4, id := id }
  | .ptlook index => .op { zeroPorts with op := 6#4, index := index }
  | .fbEnable target master => .op { zeroPorts with op := 7#4, target := target, master := master }
  | .fbDisable target master => .op { zeroPorts with op := 8#4, target := target, master := master }
  | .fbSetzero target master => .op { zeroPorts with op := 9#4, target := target, master := master }
  | .fbWrparam target master index fmt bounds val32 =>
      .op (({ zeroPorts with
        op := 10#4, target := target, master := master, index := index, fmt := fmtCode fmt, val32 := val32 }).withBounds
          bounds)
  | .fbRdparam target master index => .op { zeroPorts with op := 11#4, target := target, master := master, index := index }
  | .fbMotion target torque angle velocity kp kd =>
      .op { zeroPorts with
        op := 12#4, target := target, torque := torque, angle := angle, velocity := velocity, kp := kp, kd := kd }
  | .fpParse id dlc B => .op { zeroPorts with op := 13#4, id := id, dlc := dlc, B := B }
  | .reservedOp14 => .op { zeroPorts with op := 14#4 }
  | .reservedOp15 => .op { zeroPorts with op := 15#4 }
  | .fpMotorFeedback id dlc B => .inbound id dlc B
  | .fpParameterFeedback id dlc B => .inbound id dlc B
  | .fpFault id dlc B => .inbound id dlc B
  | .fpUnknown id dlc B => .inbound id dlc B
  | .wireMotorControl data16 target aq vq pq dq =>
      .outbound (packId 1#5 data16 target) (motionBuffer c aq vq pq dq)
  | .wireMotorEnable master target => .outbound (packId 3#5 (masterData16 master) target) zeroBuffer
  | .wireMotorStop master target => .outbound (packId 4#5 (masterData16 master) target) zeroBuffer
  | .wireSetMechanicalZero master target =>
      .outbound (packId 6#5 (masterData16 master) target) (putByte zeroBuffer 0 1#8)
  | .wireSingleParamRead master target index =>
      .outbound (packId 17#5 (masterData16 master) target) (paramBuffer c index ⟨0, 0, 0, 0⟩)
  | .wireSingleParamWrite master target index v =>
      .outbound (packId 18#5 (masterData16 master) target) (paramBuffer c index v)
  | .wireGetDeviceId data16 target => .outbound (packId 0#5 data16 target) zeroBuffer
  | .wireSetMotorCanId data16 target => .outbound (packId 7#5 data16 target) zeroBuffer
  | .wireParamTableWrite data16 target => .outbound (packId 8#5 data16 target) zeroBuffer

/-! ## The words of spec/opcode_table.json -/

/-- The `REQ` rows that some word of the table is read as when only its 29 bits are given: the nine opcodes of those
rows, with identifier bits 23 to 16 zero where the row's mask asks it (R64). -/
def isReqWord (id : Ident) : Bool :=
  match decodeOutbound Config.default id Machine.zeroBuffer with
  | .ok _ => true
  | .error _ => false

/-- The request a bare word of the table stands for. A word of up to 8 bits is an `op` code, every operand port zero. A
longer word is an identifier, payload bytes and length zero; R53 says that nothing in the 29 bits gives the direction,
so the word is taken as the frame of the `REQ` row it matches and otherwise as an inbound frame (log 8). A word with
bits above the field is no word of the table. -/
def requestOfWord (nbits w : Nat) : Option Request :=
  if nbits ≤ 8 then
    if w < 16 then some (.op { zeroPorts with op := BitVec.ofNat 4 w }) else none
  else if w < 2 ^ 29 then
    let id : Ident := BitVec.ofNat 29 w
    if isReqWord id then some (.outbound id Machine.zeroBuffer) else some (.inbound id 0 Machine.zeroBuffer)
  else none

/-- The instruction the decoder reads from a bare word of the table, under the default configuration. -/
def decodeTableWord (nbits w : Nat) : Option Instr :=
  match requestOfWord nbits w with
  | none => none
  | some r =>
    match decode Config.default r with
    | .ok i => some i
    | .error _ => none

end Sys2Proof
end

