-- ==== Sys2Proof/Machine/Fetch.lean ====
section
/-! DEFINITION. Taking the request that is on the request ports (spec/10_state.md R13, R16, spec/20_memory.md R44), and
presenting one in the host's place. -/

namespace Sys2Proof.Machine

/-- What a step finds on the request ports. -/
inductive Fetched where
  /-- No request is presented. -/
  | idle
  /-- A request that is an instruction, with the state after the ports are released. -/
  | instr (i : Instr) (s : State)
  /-- A request that is no instruction. -/
  | undefined (e : DecodeError)
  deriving DecidableEq, Repr

/-- The next request in issue order, decoded (R44: one at a time). -/
def fetch (s : State) : Fetched :=
  match s.requests with
  | [] => .idle
  | r :: rest =>
    match decode s.cfg r with
    | .ok i => .instr i { s with requests := rest }
    | .error e => .undefined e

/-- The host drives a request on the ports, before the ones it has already queued. -/
def present (s : State) (r : Request) : State := { s with requests := r :: s.requests }

/-- The state with the request of a bare word of the table presented next; a word that is none of the table's changes
nothing. -/
def presentWord (s : State) (nbits w : Nat) : State :=
  match requestOfWord nbits w with
  | some r => present s r
  | none => s

end Sys2Proof.Machine
end

