-- ==== Sys2Proof/Machine/Step.lean ====
section
/-! DEFINITION. One step: one transaction, request in, response out (spec/10_state.md R11, spec/20_memory.md R44). -/

namespace Sys2Proof.Machine

/-- One step of CGC. With no request presented nothing happens (R22: "CGC reads it only during a transaction"; log 2);
otherwise the next request is run to completion (R44). -/
def step (s : State) : Host.Outcome State Fault Refusal :=
  match fetch s with
  | .idle => .next s
  | .instr i s' => exec i s'
  | .undefined (.noReqRow id) => .refused (.noReqRow id)

/-- The state in which the very next step runs the instruction of a table word, under the default configuration's
reading of the word: the host presents it (log 1, log 8). -/
def State.withFetchWord (s : State) (nbits w : Nat) : State := presentWord s nbits w

end Sys2Proof.Machine
end

