-- ==== Sys2Proof/Machine/Flags.lean ====
section
/-! DEFINITION. The flags and codes the spec names: the status and kind codes of a response (spec/60_exceptions.md
R185, spec/10_state.md R17), and the named views of the fault flags and of the mode in a feedback identifier
(spec/10_state.md R14, spec/41_arbitration_id.md R104). CGC itself keeps no flag (R14). -/

namespace Sys2Proof.Machine

/-- The `status` field (R185). -/
inductive Status where
  | ok
  | rangeError
  | protocolError
  | invalidOperand
  | notFound
  | badOp
  deriving DecidableEq, Repr

/-- The 3-bit code of a status (R185); 6 and 7 are never produced. -/
def statusCode : Status → BitVec 3
  | .ok => 0#3
  | .rangeError => 1#3
  | .protocolError => 2#3
  | .invalidOperand => 3#3
  | .notFound => 4#3
  | .badOp => 5#3

/-- The status a cause raises (R185). -/
def raiseStatus : Raise → Status
  | .rangeError => .rangeError
  | .protocolError => .protocolError
  | .invalidOperand => .invalidOperand
  | .notFound => .notFound
  | .badOp => .badOp

/-- The tag of a parsed frame (R17, port `kind`). -/
inductive Kind where
  | motorFeedback
  | parameterFeedback
  | fault
  | unknown
  deriving DecidableEq, Repr

/-- The 2-bit code of a kind (R17). -/
def kindCode : Kind → BitVec 2
  | .motorFeedback => 0#2
  | .parameterFeedback => 1#2
  | .fault => 2#2
  | .unknown => 3#2

/-- The kind a result carries, if it is a parser's (R150). -/
def resultKind : Result → Option Kind
  | .code _ => none
  | .real _ => none
  | .ident _ => none
  | .requestFields _ _ _ => none
  | .feedbackFields _ _ _ _ _ => none
  | .descriptor _ _ => none
  | .frame _ _ _ => none
  | .motorFeedback _ _ _ _ _ _ _ _ _ => some .motorFeedback
  | .parameterFeedback _ _ _ => some .parameterFeedback
  | .fault _ _ _ _ => some .fault
  | .unknown _ => some .unknown

/-- The named fault flags of a feedback identifier (R104). -/
structure FaultFlags where
  undervoltage : Bool
  overcurrent : Bool
  overheat : Bool
  magnetic : Bool
  hall : Bool
  deriving DecidableEq, Repr

/-- The named views of `faults_o` (R14, R104): four bits placed by CG and `magnetic` at `cfg.MAGNETIC_BIT`. The raw
6-bit vector is the normative result; this is a view of the identifier. A `MAGNETIC_BIT` above 28 names no bit and
reads false (log 17). -/
def faultFlags (c : Cfg) (id : Ident) : FaultFlags where
  undervoltage := id.getLsbD 16
  overcurrent := id.getLsbD 17
  overheat := id.getLsbD 18
  magnetic := id.getLsbD c.magneticBit.toNat
  hall := id.getLsbD 20

/-- The names of the motor's modes (R52). -/
inductive Mode where
  | reset
  | calibration
  | motor
  deriving DecidableEq, Repr

/-- The name of a 2-bit mode, a view of `mode_o`; 3 is unnamed (R52, R104). The numbering is the spec's, from general
knowledge (G3). -/
def modeName (m : BitVec 2) : Option Mode :=
  match m.toNat with
  | 0 => some .reset
  | 1 => some .calibration
  | 2 => some .motor
  | _ => none

/-- The 1-bit codes of the byte orders and of the tie rule in `cfg` (R15). -/
def orderCode : Order → BitVec 1
  | .little => 0#1
  | .big => 1#1

def tieCode : Tie → BitVec 1
  | .halfAwayFromZero => 0#1
  | .halfToEven => 1#1

end Sys2Proof.Machine
end

