-- ==== Sys2Proof/Machine/ResponsePorts.lean ====
section
/-! DEFINITION. The response read port by port (spec/10_state.md R17): each port of the table as what the tagged record
gives it, `none` where it holds no value. -/

namespace Sys2Proof.Machine

/-- The result of a response, present when `status = OK` (R17, R190). -/
def responseResult : Response → Option Result
  | .ok r => some r
  | .raised _ => none

/-- Port `status`, produced by every transaction (R17, R185). -/
def portStatus : Response → Status
  | .ok _ => .ok
  | .raised e => raiseStatus e

/-- Port `q`. -/
def portQ : Response → Option (BitVec 32)
  | .ok (.code q) => some q
  | _ => none

/-- Port `x`. -/
def portX : Response → Option F64
  | .ok (.real x) => some x
  | _ => none

/-- Port `id_out`: IDPACK, the builders, and the outbound frames of the `REQ` rows. -/
def portIdOut : Response → Option Ident
  | .ok (.ident id) => some id
  | .ok (.frame id _ _) => some id
  | _ => none

/-- Port `opcode_o`. -/
def portOpcode : Response → Option (BitVec 5)
  | .ok (.requestFields o _ _) => some o
  | .ok (.feedbackFields o _ _ _ _) => some o
  | .ok (.motorFeedback o _ _ _ _ _ _ _ _) => some o
  | .ok (.parameterFeedback o _ _) => some o
  | .ok (.fault o _ _ _) => some o
  | .ok (.unknown o) => some o
  | _ => none

/-- Port `data16_o`. -/
def portData16 : Response → Option (BitVec 16)
  | .ok (.requestFields _ d _) => some d
  | _ => none

/-- Port `target_o`. -/
def portTarget : Response → Option Byte
  | .ok (.requestFields _ _ t) => some t
  | _ => none

/-- Port `faults_o`. -/
def portFaults : Response → Option (BitVec 6)
  | .ok (.feedbackFields _ f _ _ _) => some f
  | .ok (.motorFeedback _ f _ _ _ _ _ _ _) => some f
  | _ => none

/-- Port `mode_o`. -/
def portMode : Response → Option (BitVec 2)
  | .ok (.feedbackFields _ _ m _ _) => some m
  | .ok (.motorFeedback _ _ m _ _ _ _ _ _) => some m
  | _ => none

/-- Port `motor_o`. -/
def portMotor : Response → Option Byte
  | .ok (.feedbackFields _ _ _ m _) => some m
  | .ok (.motorFeedback _ _ _ m _ _ _ _ _) => some m
  | .ok (.fault _ m _ _) => some m
  | _ => none

/-- Port `master_o`. -/
def portMaster : Response → Option Byte
  | .ok (.feedbackFields _ _ _ _ m) => some m
  | .ok (.motorFeedback _ _ _ _ m _ _ _ _) => some m
  | _ => none

/-- Port `dlc_out`. -/
def portDlcOut : Response → Option (BitVec 4)
  | .ok (.frame _ n _) => some n
  | _ => none

/-- Ports `P[0..7]`. -/
def portPayload : Response → Option Buffer
  | .ok (.frame _ _ P) => some P
  | _ => none

/-- Port `kind`. -/
def portKind (r : Response) : Option Kind :=
  match responseResult r with
  | some x => resultKind x
  | none => none

/-- Ports `fb_angle`, `fb_velocity`, `fb_torque`, `fb_temperature`. -/
def portFeedback : Response → Option (F64 × F64 × F64 × F64)
  | .ok (.motorFeedback _ _ _ _ _ a v t c) => some (a, v, t, c)
  | _ => none

/-- Port `p_index`. -/
def portParamIndex : Response → Option (BitVec 16)
  | .ok (.parameterFeedback _ i _) => some i
  | _ => none

/-- Ports `p_raw[0..3]`. -/
def portParamRaw : Response → Option Quad
  | .ok (.parameterFeedback _ _ q) => some q
  | _ => none

/-- Ports `f_raw[0..7]`. -/
def portFaultRaw : Response → Option Buffer
  | .ok (.fault _ _ b _) => some b
  | _ => none

/-- Port `f_len`. -/
def portFaultLen : Response → Option (BitVec 4)
  | .ok (.fault _ _ _ n) => some n
  | _ => none

/-- Port `d_found`. -/
def portFound : Response → Option (BitVec 1)
  | .ok (.descriptor _ _) => some 1#1
  | _ => none

/-- Port `d_fmt`. -/
def portDescFmt : Response → Option (BitVec 2)
  | .ok (.descriptor f _) => some (fmtCode f)
  | _ => none

/-- Port `d_bounded`. -/
def portDescBounded : Response → Option (BitVec 1)
  | .ok (.descriptor _ b) => some (BitVec.ofBool b.isSome)
  | _ => none

/-- Ports `d_min`, `d_max`, which hold no value when `d_bounded = 0` (R119). -/
def portDescBounds : Response → Option Bounds
  | .ok (.descriptor _ b) => b
  | _ => none

end Sys2Proof.Machine
end

