-- ==== Sys2Proof/Machine/Facade.lean ====
section
/-! DEFINITION. The pseudo-operations of the Motor facade up to the frame they submit, and the check of the reply
(spec/45_facade_pseudo_ops.md R170 to R180): host software beside the machine. Out of scope as hardware
(spec/00_scope.md R6); no step of `Sys2Proof.core` runs it (log 19). The whole sequence of R170 is in
Machine/HostSystem.lean. -/

namespace Sys2Proof.Machine

/-- The table `EXPECT` (R179): the variant each pseudo-operation expects, one entry a row. A host parameter
(92_eei_decisions.md D23). -/
structure Expect where
  setRunMode : Kind
  enable : Kind
  disable : Kind
  setZero : Kind
  writeParam : Kind
  motionControl : Kind
  readParam : Kind
  setLocRef : Kind
  deriving DecidableEq, Repr

/-- The default `EXPECT` table (R179, 92_eei_decisions.md D23). -/
def defaultExpect : Expect where
  setRunMode := .motorFeedback
  enable := .motorFeedback
  disable := .motorFeedback
  setZero := .motorFeedback
  writeParam := .motorFeedback
  motionControl := .motorFeedback
  readParam := .parameterFeedback
  setLocRef := .motorFeedback

/-- The host's own constants: its master id `HOST_ID` (R170), the index `SetRunMode` writes (an open parameter, R8,
R171), and the `EXPECT` table (R179). -/
structure HostParams where
  hostId : Byte
  runModeIndex : BitVec 16
  expect : Expect
  deriving DecidableEq, Repr

/-- The suggested host: master id 0 as in CG's example (R170), run mode at `0x7005` (R8, R171; G5), and the default
`EXPECT` table (R179). DESIGN CHOICE of a default only (log 19). -/
def suggestedHost : HostParams := ⟨0#8, 0x7005#16, defaultExpect⟩

/-- The pseudo-operations (R179). -/
inductive PseudoOp where
  /-- `mode` is "a `u8` value" (R171). -/
  | setRunMode (target mode : Byte)
  | enable (target : Byte)
  | disable (target : Byte)
  | setZero (target : Byte)
  | writeParam (target : Byte) (index : BitVec 16) (value : HostValue)
  | motionControl (target : Byte) (torque angle velocity kp kd : F64)
  | readParam (target : Byte) (index : BitVec 16)
  | setLocRef (target : Byte) (x : HostValue)
  deriving DecidableEq, Repr

/-- Why an operation of a bus that does not run fails: one error kind, NotRunningError, with what is said of it. -/
inductive NotRunning where
  /-- "An operation on a bus that is not started" (R210). -/
  | notStarted
  /-- The in-flight request of a bus that is stopped, "released with a \"bus stopped\" error" (R200, R210). -/
  | busStopped
  deriving DecidableEq, Repr

/-- The error kinds of the host side of the table of R213.

R210 says that whether the "stopped" error of an in-flight request is the same kind as NotRunningError "is not said".
DESIGN CHOICE (log 23): it is that kind, since the table of R213 has no other it could be; its text is kept beside the
kind. -/
inductive HostError where
  /-- TimeoutError (R206). -/
  | timeout
  /-- TransportError: a send or a receive failed (R202, R212, R213). -/
  | transport
  /-- FaultFrame, with the raw code (R205). -/
  | faultFrame (raw : Buffer)
  /-- NotRunningError (R210). -/
  | notRunning (why : NotRunning)
  deriving DecidableEq, Repr

/-- The error a pseudo-operation returns (R170, R213). -/
inductive FacadeError where
  /-- A CGC transaction ended with a status other than `OK`: at once, nothing is submitted. -/
  | status (cause : Raise)
  /-- `submit` failed (R170: "may fail: TimeoutError, FaultFrame, TransportError, NotRunningError"). -/
  | submit (error : HostError)
  /-- The reply's variant is not the expected one (R170, R213). -/
  | unexpectedVariant
  /-- A builder answered `OK` with no frame. Never: every builder's result is a frame (R130); the constructor makes
  `frameOf` total. -/
  | noFrame
  deriving DecidableEq, Repr

/-- A frame as the builders return it: identifier, length, payload (R130). -/
structure BuiltFrame where
  id : Ident
  dlc : BitVec 4
  payload : Buffer
  deriving DecidableEq, Repr

/-- One CGC transaction issued by the host: the response CGC gives under a configuration (R10, R11). -/
def transact (c : Cfg) (i : Instr) : Option Response :=
  match exec i ⟨c, [], none⟩ with
  | .next s => s.resp
  | .fault _ => none
  | .refused _ => none

/-- The frame of a builder's response; any other status is returned to the caller (R170). -/
def frameOf : Option Response → Except FacadeError BuiltFrame
  | some (.ok (.frame id dlc P)) => .ok ⟨id, dlc, P⟩
  | some (.raised e) => .error (.status e)
  | some (.ok _) => .error .noFrame
  | none => .error .noFrame

/-- The number a host value is. -/
def hostNumber : HostValue → Flt
  | .integer n => fltOfInt n
  | .single x => f32Value x
  | .double x => f64Value x

/-- The integer formats' part of `to_val32`: "the integer, sign-extended to 32 bits" (R174). R174 gives no result for a
value that is no whole number, or one outside 32 bits: a free value (log 22). -/
def toInteger32 (fmt : Fmt) (v : HostValue) : BitVec 32 :=
  match wholeNumber (hostNumber v) with
  | some z => if -2 ^ 31 ≤ z ∧ z < 2 ^ 31 then BitVec.ofInt 32 z else Config.hostConversion fmt v
  | none => Config.hostConversion fmt v

/-- The `f32` part of `to_val32`: "the binary32 pattern of the value, and a host whose value is a binary64 first rounds
it to binary32, to nearest with ties to even" (R174). DEDUCED: a whole number is a value too, and one that binary32 does
not hold is rounded the same way; so the mode of `SetRunMode` on an `f32` descriptor is written as the binary32 pattern
of the mode's number (log 22). -/
def toSingle32 : HostValue → BitVec 32
  | .integer n => narrow 0 (fltOfInt n)
  | .single x => x
  | .double x => narrow (Config.hostNaN x) (f64Value x)

/-- `to_val32(fmt, value)` (R174). -/
def toVal32 (fmt : Fmt) (v : HostValue) : BitVec 32 :=
  match fmt with
  | .u8 => toInteger32 .u8 v
  | .i16 => toInteger32 .i16 v
  | .i32 => toInteger32 .i32 v
  | .f32 => toSingle32 v

/-- `WriteParam` up to `submit` (R174): look up, convert, build; nothing is built on `NotFound`. -/
def buildWrite (h : HostParams) (c : Cfg) (target : Byte) (index : BitVec 16) (v : HostValue) :
    Except FacadeError BuiltFrame :=
  match transact c (.ptlook index) with
  | some (.ok (.descriptor fmt bounds)) =>
      frameOf (transact c (.fbWrparam target h.hostId index fmt bounds (toVal32 fmt v)))
  | r => frameOf r

/-- The frame a pseudo-operation submits (R170 to R178).

`SetRunMode` and `SetLocRef` are `WriteParam` at their index, whatever format the table gives that index; R171 speaks of
a `u8` and R178 of an `f32` descriptor only. DESIGN CHOICE (log 22): with another format there, the value is converted
as R174 says for that format, and is a free value where R174 says nothing, as for a fractional `SetLocRef` on an integer
descriptor. -/
def expand (h : HostParams) (c : Cfg) : PseudoOp → Except FacadeError BuiltFrame
  | .setRunMode target mode => buildWrite h c target h.runModeIndex (.integer mode.toNat)
  | .enable target => frameOf (transact c (.fbEnable target h.hostId))
  | .disable target => frameOf (transact c (.fbDisable target h.hostId))
  | .setZero target => frameOf (transact c (.fbSetzero target h.hostId))
  | .writeParam target index v => buildWrite h c target index v
  | .motionControl target torque angle velocity kp kd =>
      frameOf (transact c (.fbMotion target torque angle velocity kp kd))
  | .readParam target index => frameOf (transact c (.fbRdparam target h.hostId index))
  | .setLocRef target x => buildWrite h c target Config.locRefIndex x

/-- The variant a pseudo-operation expects: its row of `EXPECT` (R179). -/
def expected (h : HostParams) : PseudoOp → Kind
  | .setRunMode _ _ => h.expect.setRunMode
  | .enable _ => h.expect.enable
  | .disable _ => h.expect.disable
  | .setZero _ => h.expect.setZero
  | .writeParam _ _ _ => h.expect.writeParam
  | .motionControl _ _ _ _ _ _ => h.expect.motionControl
  | .readParam _ _ => h.expect.readParam
  | .setLocRef _ _ => h.expect.setLocRef

/-- The last step of a pseudo-operation: the settled variant is returned if it is the expected one (R170). -/
def acceptReply (h : HostParams) (p : PseudoOp) (reply : Result) : Except FacadeError Result :=
  if resultKind reply = some (expected h p) then .ok reply else .error .unexpectedVariant

end Sys2Proof.Machine
end

