-- ==== Sys2Proof/Machine/Correlator.lean ====
section
/-! DEFINITION. The request–reply correlator and the bus (spec/60_exceptions.md R200 to R211): the host environment,
beside the machine, as a function from events to notices. Out of scope as hardware (spec/00_scope.md R6, spec/10_state.md
R21); no step of `Sys2Proof.core` runs it (log 19). -/

namespace Sys2Proof.Machine

/-- A caller at the send permit: its frame, its timeout, and whether the transport accepts the frame when it is handed
over (R201, R202, R212). -/
structure Submission where
  caller : Nat
  frame : BuiltFrame
  /-- `none` takes the default, `DEFAULT_TIMEOUT_MS`; a number is the caller's override (R200, R202). -/
  timeoutMs : Option Nat
  sendAccepted : Bool
  deriving DecidableEq, Repr

/-- `OutstandingRequest`: "{target id, opcode, created-at, timeout, completion slot}" (R203); the caller stands for the
completion slot. -/
structure Outstanding where
  caller : Nat
  target : Byte
  opcode : BitVec 5
  createdAt : Nat
  timeoutMs : Nat
  deriving DecidableEq, Repr

/-- The bus: whether it is started, its clock in milliseconds, the one outstanding request and the callers waiting at
the permit in arrival order (R201, R203, R210). -/
structure Bus where
  running : Bool
  clock : Nat
  outstanding : Option Outstanding
  gate : List Submission
  deriving DecidableEq, Repr

/-- What happens to the bus. -/
inductive BusEvent where
  | start
  | stop
  | submit (s : Submission)
  | received (id : Ident) (dlc : BitVec 4) (payload : Buffer)
  /-- The transport fails to receive (R212: `receiveBlocking() -> Result<frame>`; R213). -/
  | receiveFailed
  | elapsed (ms : Nat)
  deriving DecidableEq, Repr

/-- What the bus does that can be observed. -/
inductive Notice where
  /-- "starting twice is a no-op returning failure" (R210). -/
  | startRefused
  /-- The frame is handed to the transport (R202). -/
  | sent (caller : Nat) (frame : BuiltFrame)
  /-- The request settles with a decoded variant (R204). -/
  | settled (caller : Nat) (reply : Result)
  /-- The request fails (R205, R206, R210, R213). -/
  | failed (caller : Nat) (error : HostError)
  /-- An error with no request to fail is surfaced (R213). -/
  | surfaced (error : HostError)
  /-- A frame is logged and dropped, settling nothing (R208). -/
  | dropped
  /-- A frame arrives with nothing outstanding and is discarded with a warning (R205, R206). -/
  | discarded
  deriving DecidableEq, Repr

/-- The bus before it is started. -/
def idleBus : Bus := ⟨false, 0, none, []⟩

/-- The deadline of a submission in milliseconds: "default 2000 ms, caller-overridable" (R202). -/
def Submission.deadline (s : Submission) : Nat := s.timeoutMs.getD Config.defaultTimeoutMs

/-- The record of a submission whose frame the transport took (R203). -/
def Submission.record (s : Submission) (now : Nat) : Outstanding :=
  ⟨s.caller, idLow s.frame.id, idOpcode s.frame.id, now, s.deadline⟩

/-- The permit passes to the callers at the gate in arrival order until one frame is accepted by the transport (R201,
R202, R207); a rejected frame fails its caller and releases the permit. -/
def grantPermit (now : Nat) : List Submission → Option Outstanding × List Submission × List Notice
  | [] => (none, [], [])
  | s :: rest =>
    if s.sendAccepted then
      (some (s.record now), rest, [.sent s.caller s.frame])
    else
      let (o, g, n) := grantPermit now rest
      (o, g, .failed s.caller .transport :: n)

/-- The permit is released and passed on (R207). -/
def releasePermit (b : Bus) (note : Notice) : Bus × List Notice :=
  let (o, g, n) := grantPermit b.clock b.gate
  ({ b with outstanding := o, gate := g }, note :: n)

/-- A parsed frame delivered to the single outstanding slot (R204, R205, R208). -/
def deliver (b : Bus) (r : Option Response) : Bus × List Notice :=
  match r with
  | some (.ok (.fault _ _ raw _)) =>
      match b.outstanding with
      | some o => releasePermit b (.failed o.caller (.faultFrame raw))
      | none => (b, [.discarded])
  | some (.ok (.unknown _)) => (b, [.dropped])
  | some (.ok reply) =>
      match b.outstanding with
      | some o => releasePermit b (.settled o.caller reply)
      | none => (b, [.discarded])
  | _ => (b, [.dropped])

/-- One event of the host environment.

A failed receive is a TransportError, "send/receive failed at the hardware layer — surfaced, not retried here" (R213),
and "I/O and protocol errors are returned as the result of the asynchronous request/response operation". DESIGN CHOICE
(log 24): it fails the outstanding request, and with none outstanding it is surfaced by itself. -/
def busStep (c : Cfg) (b : Bus) : BusEvent → Bus × List Notice
  | .start => if b.running then (b, [.startRefused]) else ({ b with running := true }, [])
  | .stop =>
      ({ b with running := false, outstanding := none, gate := [] },
        (b.outstanding.toList.map fun o => .failed o.caller (.notRunning .busStopped))
          ++ b.gate.map fun s => .failed s.caller (.notRunning .busStopped))
  | .submit s =>
      if !b.running then (b, [.failed s.caller (.notRunning .notStarted)])
      else
        match b.outstanding with
        | some _ => ({ b with gate := b.gate ++ [s] }, [])
        | none =>
            let (o, g, n) := grantPermit b.clock (b.gate ++ [s])
            ({ b with outstanding := o, gate := g }, n)
  | .received id dlc payload =>
      if b.running then deliver b (transact c (.fpParse id dlc payload)) else (b, [])
  | .receiveFailed =>
      if b.running then
        match b.outstanding with
        | some o => releasePermit b (.failed o.caller .transport)
        | none => (b, [.surfaced .transport])
      else (b, [])
  | .elapsed ms =>
      match b.outstanding with
      | some o =>
          if o.createdAt + o.timeoutMs ≤ b.clock + ms then
            releasePermit { b with clock := b.clock + ms } (.failed o.caller .timeout)
          else ({ b with clock := b.clock + ms }, [])
      | none => ({ b with clock := b.clock + ms }, [])

end Sys2Proof.Machine
end

