-- ==== Sys2Proof/Machine/OpcodeTable.lean ====
section
/-! DEFINITION. The rows of spec/opcode_table.json with their masks and matches (spec/30_encoding.md R64), beside the
decoder: what the statements hold the decoder against. -/

namespace Sys2Proof.Machine

/-- One row of the table: its mnemonic and the mask and match over its word (an `OP` row's word is the 4-bit `op` port,
an `FB` or `REQ` row's the 29-bit identifier). -/
structure TableRow where
  mnemonic : String
  mask : Ident
  pattern : Ident
  deriving DecidableEq, Repr

/-- The sixteen `OP` rows (R62, R64). -/
def opRows : List TableRow :=
  [⟨"QENC", 0x0000000F#29, 0x00000000#29⟩,
   ⟨"QENCS", 0x0000000F#29, 0x00000001#29⟩,
   ⟨"QDEC", 0x0000000F#29, 0x00000002#29⟩,
   ⟨"IDPACK", 0x0000000F#29, 0x00000003#29⟩,
   ⟨"IDUNPK_REQ", 0x0000000F#29, 0x00000004#29⟩,
   ⟨"IDUNPK_FB", 0x0000000F#29, 0x00000005#29⟩,
   ⟨"PTLOOK", 0x0000000F#29, 0x00000006#29⟩,
   ⟨"FB_ENABLE", 0x0000000F#29, 0x00000007#29⟩,
   ⟨"FB_DISABLE", 0x0000000F#29, 0x00000008#29⟩,
   ⟨"FB_SETZERO", 0x0000000F#29, 0x00000009#29⟩,
   ⟨"FB_WRPARAM", 0x0000000F#29, 0x0000000A#29⟩,
   ⟨"FB_RDPARAM", 0x0000000F#29, 0x0000000B#29⟩,
   ⟨"FB_MOTION", 0x0000000F#29, 0x0000000C#29⟩,
   ⟨"FP_PARSE", 0x0000000F#29, 0x0000000D#29⟩,
   ⟨"RESERVED_OP_14", 0x0000000F#29, 0x0000000E#29⟩,
   ⟨"RESERVED_OP_15", 0x0000000F#29, 0x0000000F#29⟩]

/-- The four `FB` rows, in the order in which they are tried (R64). -/
def fbRows : List TableRow :=
  [⟨"FP_PARSE.MotorFeedback", 0x1F000000#29, 0x02000000#29⟩,
   ⟨"FP_PARSE.ParameterFeedback", 0x1F000000#29, 0x11000000#29⟩,
   ⟨"FP_PARSE.Fault", 0x1F000000#29, 0x15000000#29⟩,
   ⟨"FP_PARSE.Unknown", 0x00000000#29, 0x00000000#29⟩]

/-- The nine `REQ` rows (R64). -/
def reqRows : List TableRow :=
  [⟨"WIRE_MotorControl", 0x1F000000#29, 0x01000000#29⟩,
   ⟨"WIRE_MotorEnable", 0x1FFF0000#29, 0x03000000#29⟩,
   ⟨"WIRE_MotorStop", 0x1FFF0000#29, 0x04000000#29⟩,
   ⟨"WIRE_SetMechanicalZero", 0x1FFF0000#29, 0x06000000#29⟩,
   ⟨"WIRE_SingleParamRead", 0x1FFF0000#29, 0x11000000#29⟩,
   ⟨"WIRE_SingleParamWrite", 0x1FFF0000#29, 0x12000000#29⟩,
   ⟨"WIRE_GetDeviceId", 0x1F000000#29, 0x00000000#29⟩,
   ⟨"WIRE_SetMotorCanId", 0x1F000000#29, 0x07000000#29⟩,
   ⟨"WIRE_ParamTableWrite", 0x1F000000#29, 0x08000000#29⟩]

/-- Whether a word fits a row: `(id & mask) == match` (R64). -/
def rowFits (row : TableRow) (word : Ident) : Bool := word &&& row.mask == row.pattern

/-- The rows a request is looked up among: by what it is, never by its bits (R53). -/
def rowsFor : Request → List TableRow
  | .op _ => opRows
  | .inbound _ _ _ => fbRows
  | .outbound _ _ => reqRows

/-- The word of a request that the rows' masks are laid over. -/
def requestWord : Request → Ident
  | .op p => p.op.zeroExtend 29
  | .inbound id _ _ => id
  | .outbound id _ => id

/-- The first row a request fits (R64). -/
def firstRow (r : Request) : Option TableRow := (rowsFor r).find? fun row => rowFits row (requestWord r)

/-- The mnemonic of an instruction's row. -/
def mnemonicOf : Instr → String
  | .qenc _ _ _ _ => "QENC"
  | .qencs _ _ _ => "QENCS"
  | .qdec _ _ _ _ => "QDEC"
  | .idpack _ _ _ => "IDPACK"
  | .idunpkReq _ => "IDUNPK_REQ"
  | .idunpkFb _ => "IDUNPK_FB"
  | .ptlook _ => "PTLOOK"
  | .fbEnable _ _ => "FB_ENABLE"
  | .fbDisable _ _ => "FB_DISABLE"
  | .fbSetzero _ _ => "FB_SETZERO"
  | .fbWrparam _ _ _ _ _ _ => "FB_WRPARAM"
  | .fbRdparam _ _ _ => "FB_RDPARAM"
  | .fbMotion _ _ _ _ _ _ => "FB_MOTION"
  | .fpParse _ _ _ => "FP_PARSE"
  | .reservedOp14 => "RESERVED_OP_14"
  | .reservedOp15 => "RESERVED_OP_15"
  | .fpMotorFeedback _ _ _ => "FP_PARSE.MotorFeedback"
  | .fpParameterFeedback _ _ _ => "FP_PARSE.ParameterFeedback"
  | .fpFault _ _ _ => "FP_PARSE.Fault"
  | .fpUnknown _ _ _ => "FP_PARSE.Unknown"
  | .wireMotorControl _ _ _ _ _ _ => "WIRE_MotorControl"
  | .wireMotorEnable _ _ => "WIRE_MotorEnable"
  | .wireMotorStop _ _ => "WIRE_MotorStop"
  | .wireSetMechanicalZero _ _ => "WIRE_SetMechanicalZero"
  | .wireSingleParamRead _ _ _ => "WIRE_SingleParamRead"
  | .wireSingleParamWrite _ _ _ _ => "WIRE_SingleParamWrite"
  | .wireGetDeviceId _ _ => "WIRE_GetDeviceId"
  | .wireSetMotorCanId _ _ => "WIRE_SetMotorCanId"
  | .wireParamTableWrite _ _ => "WIRE_ParamTableWrite"

end Sys2Proof.Machine
end

