-- ==== Sys2Proof/Safety.lean ====
section
/-! DEFINITION. What counts as a safe state: a valid configuration and a response of the shapes the spec allows. -/

namespace Sys2Proof.Machine

/-- No index twice (spec/42_parameter_table.md R118: "pairwise distinct `index`"). -/
def distinctIndices : List Descriptor → Bool
  | [] => true
  | d :: ds => (ds.all fun e => e.index != d.index) && distinctIndices ds

/-- A configuration the spec allows (spec/10_state.md R15, spec/40_quantization.md R85): `BITS_MIN` and `BITS_MAX`
within 1 to 32 with the protocol's 16 between them, a temperature range that `QDEC` accepts, distinct indices, and a
magnetic bit that is a bit of the identifier. -/
def cfgValid (c : Cfg) : Bool :=
  decide (1 ≤ c.bitsMin.toNat) && decide (c.bitsMin.toNat ≤ 16) && decide (16 ≤ c.bitsMax.toNat)
    && decide (c.bitsMax.toNat ≤ 32) && qvalid c c.tempMin c.tempMax Config.qbits
    && distinctIndices c.paramTable && decide (c.magneticBit.toNat < 29)

/-- A value inside a closed range, by the IEEE-754 comparisons. -/
def inRange (x mn mx : F64) : Bool := (f64Value mn).le (f64Value x) && (f64Value x).le (f64Value mx)

/-- Bytes 2 to 3 of a parameter frame, "reserved/zero" (spec/30_encoding.md R54). -/
def reservedZero (P : Buffer) : Bool := P.b2 == 0#8 && P.b3 == 0#8

/-- A built frame as the map of spec/20_memory.md R40 has it: a wire opcode with a builder, the length of its kind, the
fixed bytes and identifier bits 23 to 16 at their values (spec/30_encoding.md R54 to R59). -/
def frameAllowed (id : Ident) (dlc : BitVec 4) (P : Buffer) : Bool :=
  match wireOpcodeOf (idOpcode id) with
  | some .motorControl => dlc == 8#4
  | some .motorEnable => dlc == 0#4 && idHigh id == 0#8 && decide (P = zeroBuffer)
  | some .motorStop => dlc == 8#4 && idHigh id == 0#8 && decide (P = zeroBuffer)
  | some .setMechanicalZero => dlc == 1#4 && idHigh id == 0#8 && decide (P = ⟨1, 0, 0, 0, 0, 0, 0, 0⟩)
  | some .singleParamRead =>
      dlc == 8#4 && idHigh id == 0#8 && reservedZero P && decide (readQuad P = ⟨0, 0, 0, 0⟩)
  | some .singleParamWrite => dlc == 8#4 && idHigh id == 0#8 && reservedZero P
  | some .getDeviceId => false
  | some .motorFeedback => false
  | some .setMotorCanId => false
  | some .paramTableWrite => false
  | some .faultFeedback => false
  | none => false

/-- Bytes at a length and above are zero (spec/20_memory.md R31, spec/44_frame_parser.md R154). -/
def zeroFrom (len : Nat) (B : Buffer) : Bool := (List.range 8).all fun k => decide (k < len) || getByte B k == 0#8

/-- The five ranges of the protocol's quantities (spec/00_scope.md R8): torque, angle, velocity, kp, kd. -/
def protocolRanges : List (F64 × F64) :=
  [(Config.tMin, Config.tMax), (Config.pMin, Config.pMax), (Config.vMin, Config.vMax), (Config.kpMin, Config.kpMax),
   (Config.kdMin, Config.kdMax)]

/-- A whole number of units that binary64 holds, the exponent unbounded above: 53 significant bits (spec/40_quantization.md
R81). -/
def holdable (m : Nat) : Prop := ∃ sig k, sig < 2 ^ 53 ∧ m = sig * 2 ^ k

/-- The least magnitude in units that rounds to `2^1024` or more: half a unit in the last place below it,
`2^1024 − 2^970` (spec/40_quantization.md R81, R82). -/
def overflowFrom : Nat := 2 ^ 2098 - 2 ^ 2044

/-- `r` is the one rounding of `z / d` units (spec/40_quantization.md R82): infinite where the magnitude overflows, and
otherwise the nearest value; a zero `z` has the sign given, and every other the sign of `z`. -/
def roundsTo (z : Int) (d : Nat) (zeroSign : Bool) (r : Flt) : Prop :=
  let neg := if z = 0 then zeroSign else decide (z < 0)
  r = if overflowFrom * d ≤ z.natAbs then .inf neg else .fin neg (roundUnits z.natAbs d)

/-- `y` is `x` brought to the edge of a range, or `x` itself (spec/70_reset_and_hazards.md R242). -/
def saturates (x y mn mx : F64) : Prop :=
  y = x ∨ ((f64Value mx).lt (f64Value x) = true ∧ y = mx) ∨ ((f64Value x).lt (f64Value mn) = true ∧ y = mn)

/-- A response of the shapes the spec allows. -/
def responseAllowed (c : Cfg) : Response → Bool
  | .raised _ => true
  | .ok (.code _) => true
  | .ok (.real x) => !(f64Value x).isNaN
  | .ok (.ident _) => true
  | .ok (.requestFields _ _ _) => true
  | .ok (.feedbackFields _ _ _ _ _) => true
  | .ok (.descriptor fmt bounds) => c.paramTable.any fun d => decide (d.fmt = fmt) && decide (d.bounds = bounds)
  | .ok (.frame id dlc P) => frameAllowed id dlc P && zeroFrom dlc.toNat P
  | .ok (.motorFeedback opcode _ _ _ _ angle velocity torque temperature) =>
      opcode == 2#5 && inRange angle Config.pMin Config.pMax && inRange velocity Config.vMin Config.vMax
        && inRange torque Config.tMin Config.tMax && !(f64Value temperature).isNaN
  | .ok (.parameterFeedback opcode _ _) => opcode == 17#5
  | .ok (.fault opcode _ raw len) => opcode == 21#5 && decide (len.toNat ≤ 8) && zeroFrom len.toNat raw
  | .ok (.unknown opcode) => !hasOwnArm opcode

/-- The invariant: the configuration is valid, and the response, if there is one, is of the shapes the spec allows. -/
def stateAllowed (s : State) : Bool :=
  cfgValid s.cfg &&
    match s.resp with
    | none => true
    | some r => responseAllowed s.cfg r

end Sys2Proof.Machine
end

