-- ==== Sys2Proof/Certificates/Slice0/Obligations.lean ====
section
/-! DEFINITION. The statements for the provers. A next state is written `{ s with resp := some r }`: the configuration
and the waiting requests are as before, which is the whole frame of every instruction (spec/10_state.md R12, R20). -/

open Sys2Proof Sys2Proof.Machine

/-! ## Requests and instructions -/

/-- Decode and encode agree: the request a well-formed instruction is presented by is read back as that instruction, with
every operand. Which request stands for an `FB` or a `REQ` row is the model's choice (log 5, log 6). -/
def Obligations.DecodeEncodeAgree : Prop :=
  ∀ (c : Cfg) (i : Instr), wellFormed i = true → decode c (encode c i) = .ok i

/-- Words written out from the spec's encodings decode to their instructions: `op` 6 with index `0x7017`; the identifier
of R104's example as an inbound frame; the frames of R131's and R135's examples; R102's identifier of opcode 7. -/
def Obligations.HandWrittenWordsDecode : Prop :=
  decode Config.default (.op { zeroPorts with op := 6#4, index := 0x7017#16 }) = .ok (.ptlook 0x7017#16) ∧
  decode Config.default (.inbound 0x02917F00#29 8#4 zeroBuffer) = .ok (.fpMotorFeedback 0x02917F00#29 8#4 zeroBuffer) ∧
  decode Config.default (.outbound 0x0300007F#29 zeroBuffer) = .ok (.wireMotorEnable 0#8 127#8) ∧
  decode Config.default (.outbound 0x1100007F#29 ⟨0x16, 0x70, 0, 0, 0, 0, 0, 0⟩)
    = .ok (.wireSingleParamRead 0#8 127#8 0x7016#16) ∧
  decode Config.default (.outbound 0x07123456#29 zeroBuffer) = .ok (.wireSetMotorCanId 0x1234#16 0x56#8)

/-- An inbound frame is the instruction of the first `FB` row its identifier fits, and the instruction keeps the frame
whole (R64). -/
def Obligations.InboundIsFirstRow : Prop :=
  ∀ (c : Cfg) (id : Ident) (dlc : BitVec 4) (B : Buffer),
    ∃ i, decode c (.inbound id dlc B) = .ok i ∧ wellFormed i = true ∧ encode c i = .inbound id dlc B ∧
      (fbRows.find? fun row => rowFits row id).map (·.mnemonic) = some (mnemonicOf i)

/-- An outbound frame fits at most one `REQ` row; it is that row's instruction, its identifier kept whole, and it is no
instruction where it fits none. That this holds whatever the payload, the bytes R54 and R57 fix included, is the model's
choice (log 6: they are not checked), and that a frame of no row is no instruction is the model's choice (log 9). -/
def Obligations.OutboundIsItsRow : Prop :=
  ∀ (c : Cfg) (id : Ident) (B : Buffer),
    (∀ row ∈ reqRows, rowFits row id = true →
      (∀ other ∈ reqRows, rowFits other id = true → other = row) ∧
      ∃ i P, decode c (.outbound id B) = .ok i ∧ mnemonicOf i = row.mnemonic ∧ encode c i = .outbound id P) ∧
    ((∀ row ∈ reqRows, rowFits row id = false) → decode c (.outbound id B) = .error (.noReqRow id))

/-- "An operand the operation does not name is not read, and its value cannot change the response" (R16): two requests
with the same `op` that agree on the operands the table of R16 gives that operation run alike. -/
def Obligations.UnnamedPortsIgnored : Prop :=
  ∀ (s : State) (rest : List Request) (p q : Ports), p.op = q.op →
    (p.op = 0#4 → p.value = q.value ∧ p.min = q.min ∧ p.max = q.max ∧ p.bits = q.bits) →
    (p.op = 1#4 → p.value = q.value ∧ p.min = q.min ∧ p.max = q.max) →
    (p.op = 2#4 → p.raw = q.raw ∧ p.min = q.min ∧ p.max = q.max ∧ p.bits = q.bits) →
    (p.op = 3#4 → p.opcode = q.opcode ∧ p.data16 = q.data16 ∧ p.target = q.target) →
    (p.op = 4#4 → p.id = q.id) →
    (p.op = 5#4 → p.id = q.id) →
    (p.op = 6#4 → p.index = q.index) →
    (p.op = 7#4 → p.target = q.target ∧ p.master = q.master) →
    (p.op = 8#4 → p.target = q.target ∧ p.master = q.master) →
    (p.op = 9#4 → p.target = q.target ∧ p.master = q.master) →
    (p.op = 10#4 → p.target = q.target ∧ p.master = q.master ∧ p.index = q.index ∧ p.fmt = q.fmt ∧
      p.bounded = q.bounded ∧ p.val32 = q.val32 ∧ (p.bounded = 1#1 → p.min = q.min ∧ p.max = q.max)) →
    (p.op = 11#4 → p.target = q.target ∧ p.master = q.master ∧ p.index = q.index) →
    (p.op = 12#4 → p.target = q.target ∧ p.torque = q.torque ∧ p.angle = q.angle ∧ p.velocity = q.velocity ∧
      p.kp = q.kp ∧ p.kd = q.kd) →
    (p.op = 13#4 → p.id = q.id ∧ p.dlc = q.dlc ∧ p.B = q.B) →
    step { s with requests := .op p :: rest } = step { s with requests := .op q :: rest }

/-! ## The step -/

/-- A step runs the decoded instruction: where the next request decodes to `i`, the step is `exec i` on the state with
that request taken off the ports. -/
def Obligations.StepRunsDecodedInstruction : Prop :=
  ∀ (s : State) (r : Request) (rest : List Request) (i : Instr), s.requests = r :: rest → decode s.cfg r = .ok i →
    step s = exec i { s with requests := rest }

/-- A step answers a next state in every state but one whose next request is an outbound frame of no `REQ` row, and
there it refuses by that name (the model's choice, log 9); with no request presented nothing changes (log 2). -/
def Obligations.StepStopsOnlyOnUnlistedFrame : Prop :=
  ∀ s : State,
    (s.requests = [] → step s = .next s) ∧
    (∀ id B rest, s.requests = .outbound id B :: rest → (∀ row ∈ reqRows, rowFits row id = false) →
      step s = .refused (.noReqRow id)) ∧
    ((¬∃ id B rest, s.requests = .outbound id B :: rest ∧ ∀ row ∈ reqRows, rowFits row id = false) →
      ∃ t, step s = .next t)

/-- Every instruction completes in every state, whatever its operands, and changes the response alone (R12, R20, R190). -/
def Obligations.EveryInstructionOnlyResponds : Prop :=
  ∀ (i : Instr) (s : State), ∃ r, exec i s = .next { s with resp := some r }

/-- "The response is a function of the request bundle and of the configuration record (rule R15) alone" (R11): two
states with the same configuration and the same next request get the same response, whatever came before; the
configuration stays, one request is taken, and the others wait in order (R44). -/
def Obligations.ResponseIsAFunctionOfRequest : Prop :=
  ∀ (s s' t t' : State) (r : Request) (rest rest' : List Request),
    s.requests = r :: rest → s'.requests = r :: rest' → s.cfg = s'.cfg → step s = .next t → step s' = .next t' →
    t.resp = t'.resp ∧ t.resp.isSome = true ∧ t.cfg = s.cfg ∧ t.requests = rest

/-- The state after reset (R22): no response yet, and no request presented (the model's choice, log 1); the open fields
of the configuration at the defaults of R8 and R15, the parameter table the eighteen suggested rows of R118 and no other
(the model's choice, log 3, log 4). -/
def Obligations.ResetState : Prop :=
  State.reset.resp = none ∧ State.reset.requests = [] ∧
  State.reset.cfg.bitsMin = 1#8 ∧ State.reset.cfg.bitsMax = 32#8 ∧
  State.reset.cfg.tempMin = 0x0000000000000000#64 ∧ State.reset.cfg.tempMax = 0x40B9998000000000#64 ∧
  State.reset.cfg.roundTie = .halfAwayFromZero ∧
  State.reset.cfg.mcOrder = .little ∧ State.reset.cfg.fbOrder = .big ∧ State.reset.cfg.pidxTxOrder = .little ∧
  State.reset.cfg.pidxRxOrder = .big ∧ State.reset.cfg.pvalOrder = .little ∧ State.reset.cfg.magneticBit = 19#5 ∧
  State.reset.cfg.paramTable =
    [⟨0x7005#16, .u8, some ⟨0x0000000000000000#64, 0x4008000000000000#64⟩⟩,
     ⟨0x7006#16, .f32, some ⟨0xC037000000000000#64, 0x4037000000000000#64⟩⟩,
     ⟨0x700A#16, .f32, some ⟨0xC03E000000000000#64, 0x403E000000000000#64⟩⟩,
     ⟨0x700B#16, .f32, some ⟨0x0000000000000000#64, 0x4028000000000000#64⟩⟩,
     ⟨0x7010#16, .f32, none⟩,
     ⟨0x7011#16, .f32, none⟩,
     ⟨0x7014#16, .f32, some ⟨0x0000000000000000#64, 0x3FF0000000000000#64⟩⟩,
     ⟨0x7016#16, .f32, none⟩,
     ⟨0x7017#16, .f32, some ⟨0x0000000000000000#64, 0x403E000000000000#64⟩⟩,
     ⟨0x7018#16, .f32, some ⟨0x0000000000000000#64, 0x4037000000000000#64⟩⟩,
     ⟨0x7019#16, .f32, none⟩,
     ⟨0x701A#16, .f32, none⟩,
     ⟨0x701B#16, .f32, none⟩,
     ⟨0x701C#16, .f32, none⟩,
     ⟨0x701D#16, .i16, none⟩,
     ⟨0x701E#16, .f32, none⟩,
     ⟨0x701F#16, .f32, none⟩,
     ⟨0x7020#16, .f32, none⟩]

/-- The invariant holds at reset. -/
def Obligations.ResetIsAllowed : Prop := stateAllowed State.reset = true

/-- Every step keeps the invariant: the configuration stays valid, and the response is of the shapes the spec allows (a
built frame has the length, the fixed bytes and the zero identifier bits of its kind; a decoded angle, velocity and
torque lie in their ranges; no decoded value is a NaN; a fault frame's bytes above its length are zero; a descriptor is a
row of the table). -/
def Obligations.StepKeepsAllowed : Prop :=
  ∀ s t : State, stateAllowed s = true → step s = .next t → stateAllowed t = true

/-! ## Statuses -/

/-- What may raise which status (R185, R191 last paragraph), under a valid configuration; the parser's arms count as
FP_PARSE (log 5). -/
def Obligations.StatusesRaisedBy : Prop :=
  ∀ (i : Instr) (s t : State) (e : Raise), cfgValid s.cfg = true → exec i s = .next t → t.resp = some (.raised e) →
    match e with
    | .rangeError => mnemonicOf i ∈ ["QENCS", "FB_WRPARAM"]
    | .protocolError =>
        mnemonicOf i ∈ ["FP_PARSE", "FP_PARSE.MotorFeedback", "FP_PARSE.ParameterFeedback", "FP_PARSE.Fault",
          "FP_PARSE.Unknown"]
    | .invalidOperand => mnemonicOf i ∈ ["QENC", "QENCS", "QDEC", "FB_WRPARAM", "FB_MOTION"]
    | .notFound => mnemonicOf i ∈ ["PTLOOK"]
    | .badOp => mnemonicOf i ∈ ["RESERVED_OP_14", "RESERVED_OP_15"]

/-- The response bundle port by port (R17, R185, R190): a transaction that completes has status `OK` and its result on
the ports of its operation; one that raises has the status of its cause and "no result field holds a value"; the codes
of the statuses and of the kinds. -/
def Obligations.RaisedResponseHoldsNothing : Prop :=
  (∀ r : Result, portStatus (.ok r) = .ok) ∧
  portStatus (.raised .rangeError) = .rangeError ∧ portStatus (.raised .protocolError) = .protocolError ∧
  portStatus (.raised .invalidOperand) = .invalidOperand ∧ portStatus (.raised .notFound) = .notFound ∧
  portStatus (.raised .badOp) = .badOp ∧
  (∀ e : Raise,
    portStatus (.raised e) ≠ .ok ∧ portQ (.raised e) = none ∧ portX (.raised e) = none ∧
    portIdOut (.raised e) = none ∧ portOpcode (.raised e) = none ∧ portData16 (.raised e) = none ∧
    portTarget (.raised e) = none ∧ portFaults (.raised e) = none ∧ portMode (.raised e) = none ∧
    portMotor (.raised e) = none ∧ portMaster (.raised e) = none ∧ portDlcOut (.raised e) = none ∧
    portPayload (.raised e) = none ∧ portKind (.raised e) = none ∧ portFeedback (.raised e) = none ∧
    portParamIndex (.raised e) = none ∧ portParamRaw (.raised e) = none ∧ portFaultRaw (.raised e) = none ∧
    portFaultLen (.raised e) = none ∧ portFound (.raised e) = none ∧ portDescFmt (.raised e) = none ∧
    portDescBounded (.raised e) = none ∧ portDescBounds (.raised e) = none) ∧
  (∀ q, portQ (.ok (.code q)) = some q) ∧
  (∀ x, portX (.ok (.real x)) = some x) ∧
  (∀ id, portIdOut (.ok (.ident id)) = some id) ∧
  (∀ opcode data16 target, let r : Response := .ok (.requestFields opcode data16 target)
    portOpcode r = some opcode ∧ portData16 r = some data16 ∧ portTarget r = some target) ∧
  (∀ opcode faults mode motor master, let r : Response := .ok (.feedbackFields opcode faults mode motor master)
    portOpcode r = some opcode ∧ portFaults r = some faults ∧ portMode r = some mode ∧ portMotor r = some motor ∧
      portMaster r = some master) ∧
  (∀ id dlc P, let r : Response := .ok (.frame id dlc P)
    portIdOut r = some id ∧ portDlcOut r = some dlc ∧ portPayload r = some P) ∧
  (∀ opcode faults mode motor master angle velocity torque temperature,
    let r : Response := .ok (.motorFeedback opcode faults mode motor master angle velocity torque temperature)
    portKind r = some .motorFeedback ∧ portOpcode r = some opcode ∧ portFaults r = some faults ∧
      portMode r = some mode ∧ portMotor r = some motor ∧ portMaster r = some master ∧
      portFeedback r = some (angle, velocity, torque, temperature)) ∧
  (∀ opcode index raw, let r : Response := .ok (.parameterFeedback opcode index raw)
    portKind r = some .parameterFeedback ∧ portOpcode r = some opcode ∧ portParamIndex r = some index ∧
      portParamRaw r = some raw) ∧
  (∀ opcode motor raw len, let r : Response := .ok (.fault opcode motor raw len)
    portKind r = some .fault ∧ portOpcode r = some opcode ∧ portMotor r = some motor ∧ portFaultRaw r = some raw ∧
      portFaultLen r = some len) ∧
  (∀ opcode, let r : Response := .ok (.unknown opcode)
    portKind r = some .unknown ∧ portOpcode r = some opcode) ∧
  statusCode .ok = 0#3 ∧ statusCode .rangeError = 1#3 ∧ statusCode .protocolError = 2#3 ∧
  statusCode .invalidOperand = 3#3 ∧ statusCode .notFound = 4#3 ∧ statusCode .badOp = 5#3 ∧
  kindCode .motorFeedback = 0#2 ∧ kindCode .parameterFeedback = 1#2 ∧ kindCode .fault = 2#2 ∧ kindCode .unknown = 3#2 ∧
  ∀ r : Response, (statusCode (portStatus r)).toNat < 6

/-- The two unassigned `op` codes answer `BadOp` in every state (R189). -/
def Obligations.ReservedOpsRaiseBadOp : Prop :=
  (∀ s : State, exec .reservedOp14 s = .next { s with resp := some (.raised .badOp) } ∧
    exec .reservedOp15 s = .next { s with resp := some (.raised .badOp) }) ∧
  ∀ p : Ports, (p.op = 14#4 → decodeOp p = .reservedOp14) ∧ (p.op = 15#4 → decodeOp p = .reservedOp15)

/-! ## Binary64 arithmetic -/

/-- The rounding of a fraction is to the nearest value that binary64 holds, the exponent unbounded above, and a tie goes to the even
significand (R9, R82). Values are whole numbers of the least positive subnormal (G1, G2; log 13). -/
def Obligations.RoundingIsNearestEven : Prop :=
  ∀ n d : Nat, 0 < d →
    holdable (roundUnits n d) ∧
    ∀ w, holdable w →
      ((n : Int) - roundUnits n d * d).natAbs ≤ ((n : Int) - w * d).natAbs ∧
      (((n : Int) - roundUnits n d * d).natAbs = ((n : Int) - w * d).natAbs → w ≠ roundUnits n d →
        ∃ a b k, roundUnits n d = a * 2 ^ k ∧ w = b * 2 ^ k ∧ a % 2 = 0 ∧ a ≤ 2 ^ 53 ∧ b ≤ 2 ^ 53 ∧
          (a = b + 1 ∨ b = a + 1))

/-- A binary64 pattern that is no NaN is the pattern of its value, and every value binary64 holds is the value of its
pattern (R81; the layout is presumed, log 13). -/
def Obligations.PatternsAndValuesAgree : Prop :=
  (∀ x : F64, (f64Value x).isNaN = false → f64Pattern (f64Value x) = x) ∧
  (∀ (neg : Bool) (mag : Nat), holdable mag → mag < unitsOverflow →
    f64Value (f64Pattern (.fin neg mag)) = .fin neg mag) ∧
  ∀ neg : Bool, f64Value (f64Pattern (.inf neg)) = .inf neg

/-- `round_tie` of a finite value that is not below zero (R84): "is the integer `n` with `|real(t) − n| < 1/2` when one exists"; a half goes away from zero or to
the even integer as the tie rule says, and so QENC of −8.0 over −12 to 12 is 10923 or 10922, of 0.0 it is `0x8000` both
ways. -/
def Obligations.RoundTieIsNearest : Prop :=
  (∀ (neg : Bool) (mag : Nat), neg = false ∨ mag = 0 →
    (∀ (rule : Tie) (n : Nat), 2 * ((mag : Int) - n * unitsPerOne).natAbs < unitsPerOne →
      roundTie rule (.fin neg mag) = n) ∧
    ∀ k : Nat, 2 * mag = (2 * k + 1) * unitsPerOne →
      roundTie .halfAwayFromZero (.fin neg mag) = k + 1 ∧
      roundTie .halfToEven (.fin neg mag) = if k % 2 = 0 then k else k + 1) ∧
  ∀ s : State, cfgValid s.cfg = true →
    exec (.qenc 0x0000000000000000#64 Config.tMin Config.tMax 16#8) s
      = .next { s with resp := some (.ok (.code 0x8000#32)) } ∧
    exec (.qenc 0xC020000000000000#64 Config.tMin Config.tMax 16#8) s
      = .next { s with resp := some (.ok (.code (match s.cfg.roundTie with
          | .halfAwayFromZero => 10923#32
          | .halfToEven => 10922#32))) }

/-! ## QENC, QENCS, QDEC -/

/-- QENC answers `OK` for valid bounds and a number, with the rounded quotient of the clamped value, a code of at most
`N` (R86, R89 L3): the quotient is finite, so the value the spec leaves unstated is not met (log 12). A NaN is
`InvalidOperand` whatever the bounds (R91). -/
def Obligations.QencAnswersCode : Prop :=
  (∀ (s : State) (value mn mx : F64) (bits : BitVec 8), cfgValid s.cfg = true → qvalid s.cfg mn mx bits = true →
    (f64Value value).isNaN = false →
    ∃ (q : BitVec 32) (neg : Bool) (mag : Nat),
      exec (.qenc value mn mx bits) s = .next { s with resp := some (.ok (.code q)) } ∧
      fdiv (fmul (fsub (clamp (f64Value value) (f64Value mn) (f64Value mx)) (f64Value mn))
        (fltOfNat (2 ^ bits.toNat - 1))) (fsub (f64Value mx) (f64Value mn)) = .fin neg mag ∧
      q.toNat = roundTie s.cfg.roundTie (.fin neg mag) ∧ q.toNat ≤ 2 ^ bits.toNat - 1) ∧
  ∀ (s : State) (value mn mx : F64) (bits : BitVec 8), (f64Value value).isNaN = true →
    exec (.qenc value mn mx bits) s = .next { s with resp := some (.raised .invalidOperand) }

/-- Operand validity (R85): finite bounds, the lower below the upper, `bits` in the configured range, and finite span and
scaled span; without it QENC, QENCS and QDEC raise `InvalidOperand`; the five ranges of the configuration have it at 16
bits. -/
def Obligations.ValidOperands : Prop :=
  (∀ (c : Cfg) (mn mx : F64) (bits : BitVec 8),
    (qvalid c mn mx bits = true ↔
      (f64Value mn).isFinite = true ∧ (f64Value mx).isFinite = true ∧ (f64Value mn).units < (f64Value mx).units ∧
      c.bitsMin.toNat ≤ bits.toNat ∧ bits.toNat ≤ c.bitsMax.toNat ∧
      (fsub (f64Value mx) (f64Value mn)).isFinite = true ∧
      (fmul (fsub (f64Value mx) (f64Value mn)) (fltOfNat (2 ^ bits.toNat - 1))).isFinite = true)) ∧
  (∀ (s : State) (value mn mx : F64) (raw : BitVec 32) (bits : BitVec 8), qvalid s.cfg mn mx bits = false →
    exec (.qenc value mn mx bits) s = .next { s with resp := some (.raised .invalidOperand) } ∧
    exec (.qdec raw mn mx bits) s = .next { s with resp := some (.raised .invalidOperand) } ∧
    (bits = 16#8 → exec (.qencs value mn mx) s = .next { s with resp := some (.raised .invalidOperand) })) ∧
  ∀ (c : Cfg) (mn mx : F64), cfgValid c = true → (mn, mx) ∈ protocolRanges → qvalid c mn mx 16#8 = true

/-- Law L1 (R89): a value above the range, an infinity included, is quantized as the upper bound, one below as the lower
bound. -/
def Obligations.QencClamps : Prop :=
  ∀ (s : State) (value mn mx : F64) (bits : BitVec 8), qvalid s.cfg mn mx bits = true →
    ((f64Value mx).lt (f64Value value) = true → exec (.qenc value mn mx bits) s = exec (.qenc mx mn mx bits) s) ∧
    ((f64Value value).lt (f64Value mn) = true → exec (.qenc value mn mx bits) s = exec (.qenc mn mn mx bits) s)

/-- Law L2 (R89): the lower bound is quantized to 0 and the upper bound to `N = 2^bits − 1`. -/
def Obligations.QencEndPoints : Prop :=
  ∀ (s : State) (mn mx : F64) (bits : BitVec 8), cfgValid s.cfg = true → qvalid s.cfg mn mx bits = true →
    exec (.qenc mn mn mx bits) s = .next { s with resp := some (.ok (.code 0#32)) } ∧
    exec (.qenc mx mn mx bits) s
      = .next { s with resp := some (.ok (.code (BitVec.ofNat 32 (2 ^ bits.toNat - 1)))) }

/-- Law L4 (R89): a smaller value has no greater code. -/
def Obligations.QencMonotone : Prop :=
  ∀ (s : State) (v w mn mx : F64) (bits : BitVec 8), cfgValid s.cfg = true → qvalid s.cfg mn mx bits = true →
    (f64Value v).le (f64Value w) = true →
    ∃ q r : BitVec 32,
      exec (.qenc v mn mx bits) s = .next { s with resp := some (.ok (.code q)) } ∧
      exec (.qenc w mn mx bits) s = .next { s with resp := some (.ok (.code r)) } ∧ q.toNat ≤ r.toNat

/-- Law L5 (R89), for the five ranges of the configuration and under both tie rules: decoding the code of a value inside
a range gives a value within one quantization step of it. -/
def Obligations.QuantizationRoundTrip : Prop :=
  ∀ (s : State) (value mn mx : F64), cfgValid s.cfg = true → (mn, mx) ∈ protocolRanges →
    inRange value mn mx = true →
    ∃ (q : BitVec 32) (x : F64),
      exec (.qenc value mn mx 16#8) s = .next { s with resp := some (.ok (.code q)) } ∧
      exec (.qdec q mn mx 16#8) s = .next { s with resp := some (.ok (.real x)) } ∧
      (f64Value x).isFinite = true ∧
      65535 * ((f64Value x).units - (f64Value value).units).natAbs ≤
        ((f64Value mx).units - (f64Value mn).units).natAbs

/-- A 16-bit code decoded over one of the five ranges and encoded again (R88, R86) is the same code, under both tie
rules. For torque and angle 95_test_vectors.md P5 states it; it is no law of R89, and P5 claims it for no other range:
that velocity, kp and kd have it too is DEDUCED, the model's own derivation from R86 and R88. -/
def Obligations.CodesSurviveDecoding : Prop :=
  ∀ (s : State) (raw : BitVec 32) (mn mx : F64), cfgValid s.cfg = true → (mn, mx) ∈ protocolRanges →
    raw.toNat ≤ 65535 →
    ∃ x : F64,
      exec (.qdec raw mn mx 16#8) s = .next { s with resp := some (.ok (.real x)) } ∧
      exec (.qenc x mn mx 16#8) s = .next { s with resp := some (.ok (.code raw)) }

/-- QENCS inside the range (R87, R89 L6): the bounds included, the code is the rounded quotient, at most 65535, and the
one QENC gives at 16 bits. -/
def Obligations.QencsAccepts : Prop :=
  ∀ (s : State) (value mn mx : F64), cfgValid s.cfg = true → qvalid s.cfg mn mx 16#8 = true →
    inRange value mn mx = true →
    ∃ q : BitVec 32,
      exec (.qencs value mn mx) s = .next { s with resp := some (.ok (.code q)) } ∧
      exec (.qenc value mn mx 16#8) s = .next { s with resp := some (.ok (.code q)) } ∧
      q.toNat = roundTie s.cfg.roundTie
        (fdiv (fmul (fsub (f64Value value) (f64Value mn)) (fltOfNat 65535)) (fsub (f64Value mx) (f64Value mn))) ∧
      q.toNat ≤ 65535

/-- QENCS outside (R87, R186, R191): invalid bounds first, then every value not inside the closed range, in particular
every NaN and both infinities. -/
def Obligations.QencsRejects : Prop :=
  ∀ (s : State) (value mn mx : F64),
    (qvalid s.cfg mn mx 16#8 = false →
      exec (.qencs value mn mx) s = .next { s with resp := some (.raised .invalidOperand) }) ∧
    (qvalid s.cfg mn mx 16#8 = true →
      inRange value mn mx = false ∨ (f64Value value).isFinite = false →
      exec (.qencs value mn mx) s = .next { s with resp := some (.raised .rangeError) })

/-- QDEC (R88): valid bounds give a value that is no NaN, computed multiply, divide, add, from `raw` clamped to `N`. -/
def Obligations.QdecAnswersValue : Prop :=
  ∀ (s : State) (raw : BitVec 32) (mn mx : F64) (bits : BitVec 8), cfgValid s.cfg = true →
    qvalid s.cfg mn mx bits = true →
    ∃ x : F64,
      exec (.qdec raw mn mx bits) s = .next { s with resp := some (.ok (.real x)) } ∧
      f64Value x =
        fadd (fdiv (fmul (fltOfNat (min raw.toNat (2 ^ bits.toNat - 1))) (fsub (f64Value mx) (f64Value mn)))
          (fltOfNat (2 ^ bits.toNat - 1))) (f64Value mn) ∧
      (f64Value x).isNaN = false

/-- QDEC at the ends (R88): `raw = 0` gives the lower bound exactly, and every `raw` at or above `N` what `N` gives. -/
def Obligations.QdecEnds : Prop :=
  ∀ (s : State) (mn mx : F64) (bits : BitVec 8), cfgValid s.cfg = true → qvalid s.cfg mn mx bits = true →
    (∃ x : F64, exec (.qdec 0#32 mn mx bits) s = .next { s with resp := some (.ok (.real x)) } ∧
      (f64Value x).isFinite = true ∧ (f64Value x).units = (f64Value mn).units) ∧
    ∀ raw : BitVec 32, 2 ^ bits.toNat - 1 ≤ raw.toNat →
      exec (.qdec raw mn mx bits) s = exec (.qdec (BitVec.ofNat 32 (2 ^ bits.toNat - 1)) mn mx bits) s

/-- For the five protocol ranges the codes 0 and 65535 decode to the bounds exactly (R88, R152). -/
def Obligations.ProtocolEndCodes : Prop :=
  ∀ (s : State) (mn mx : F64), cfgValid s.cfg = true → (mn, mx) ∈ protocolRanges →
    exec (.qdec 0#32 mn mx 16#8) s = .next { s with resp := some (.ok (.real mn)) } ∧
    exec (.qdec 65535#32 mn mx 16#8) s = .next { s with resp := some (.ok (.real mx)) }

/-- "For the three symmetric ranges no code decodes to exactly `0.0`" (R243). -/
def Obligations.NoCodeDecodesToZero : Prop :=
  ∀ (s : State) (raw : BitVec 32) (mn mx : F64), cfgValid s.cfg = true →
    (mn, mx) ∈ [(Config.tMin, Config.tMax), (Config.pMin, Config.pMax), (Config.vMin, Config.vMax)] →
    ∃ x : F64, exec (.qdec raw mn mx 16#8) s = .next { s with resp := some (.ok (.real x)) } ∧
      (f64Value x).units ≠ 0

/-- The default temperature range decodes a code to the binary64 quotient of the code and ten (R152). -/
def Obligations.TemperatureIsTenths : Prop :=
  ∀ (s : State) (raw : BitVec 32), cfgValid s.cfg = true → raw.toNat ≤ 65535 →
    ∃ x : F64,
      exec (.qdec raw Config.default.tempMin Config.default.tempMax 16#8) s
        = .next { s with resp := some (.ok (.real x)) } ∧
      f64Value x = fdiv (fltOfNat raw.toNat) (fltOfNat 10)

/-- R91's "No operation of QU ever returns a NaN or an infinity", for QDEC and infinities. It does not hold: near the
largest finite values the last addition of R88 overflows (log 15). -/
def Obligations.QdecIsFinite : Prop :=
  ∀ (s : State) (raw : BitVec 32) (mn mx : F64) (bits : BitVec 8), cfgValid s.cfg = true →
    qvalid s.cfg mn mx bits = true →
    ∃ x : F64, exec (.qdec raw mn mx bits) s = .next { s with resp := some (.ok (.real x)) } ∧
      (f64Value x).isFinite = true

/-! ## IDPACK, IDUNPK_REQ, IDUNPK_FB -/

/-- IDPACK (R102): every operand accepted, `id_out = (opcode << 24) | (data16 << 8) | target`, always `OK`. -/
def Obligations.IdpackBuildsNumber : Prop :=
  (∀ (s : State) (opcode : BitVec 5) (data16 : BitVec 16) (target : Byte), ∃ id : Ident,
    exec (.idpack opcode data16 target) s = .next { s with resp := some (.ok (.ident id)) } ∧
    id.toNat = opcode.toNat * 2 ^ 24 + data16.toNat * 2 ^ 8 + target.toNat ∧
    id.toNat = (opcode.toNat <<< 24) ||| (data16.toNat <<< 8) ||| target.toNat) ∧
  ∀ p : Ports, p.op = 3#4 → decodeOp p = .idpack p.opcode p.data16 p.target

/-- IDUNPK_REQ (R103): total, the fields by position, and the exact inverse of IDPACK both ways. -/
def Obligations.IdunpkReqInvertsIdpack : Prop :=
  (∀ (s : State) (id : Ident), ∃ (opcode : BitVec 5) (data16 : BitVec 16) (target : Byte),
    exec (.idunpkReq id) s = .next { s with resp := some (.ok (.requestFields opcode data16 target)) } ∧
    opcode.toNat = id.toNat / 2 ^ 24 ∧ data16.toNat = id.toNat / 2 ^ 8 % 2 ^ 16 ∧ target.toNat = id.toNat % 2 ^ 8 ∧
    exec (.idpack opcode data16 target) s = .next { s with resp := some (.ok (.ident id)) }) ∧
  (∀ (s : State) (opcode : BitVec 5) (data16 : BitVec 16) (target : Byte), ∃ id : Ident,
    exec (.idpack opcode data16 target) s = .next { s with resp := some (.ok (.ident id)) } ∧
    exec (.idunpkReq id) s = .next { s with resp := some (.ok (.requestFields opcode data16 target)) }) ∧
  ∀ p : Ports, p.op = 4#4 → decodeOp p = .idunpkReq p.id

/-- IDUNPK_FB (R104): total, the five fields by position, losing nothing, and the named views of the fault flags and of
the mode. The numbers of the modes and the place of `magnetic` are the spec's general knowledge (92_eei_decisions.md D10,
D11); that the views are functions of the identifier, and that a `MAGNETIC_BIT` above 28, which this statement covers,
reads false, is the model's choice (log 17). -/
def Obligations.IdunpkFbFields : Prop :=
  (∀ (s : State) (id : Ident), ∃ (opcode : BitVec 5) (faults : BitVec 6) (mode : BitVec 2) (motor master : Byte),
    exec (.idunpkFb id) s = .next { s with resp := some (.ok (.feedbackFields opcode faults mode motor master)) } ∧
    opcode.toNat = id.toNat / 2 ^ 24 ∧ mode.toNat = id.toNat / 2 ^ 22 % 4 ∧ faults.toNat = id.toNat / 2 ^ 16 % 64 ∧
    motor.toNat = id.toNat / 2 ^ 8 % 256 ∧ master.toNat = id.toNat % 256 ∧
    id = opcode ++ mode ++ faults ++ motor ++ master ∧
    (faultFlags s.cfg id).undervoltage = faults.getLsbD 0 ∧ (faultFlags s.cfg id).overcurrent = faults.getLsbD 1 ∧
    (faultFlags s.cfg id).overheat = faults.getLsbD 2 ∧ (faultFlags s.cfg id).hall = faults.getLsbD 4 ∧
    (faultFlags s.cfg id).magnetic = id.getLsbD s.cfg.magneticBit.toNat ∧
    (s.cfg.magneticBit = 19#5 → (faultFlags s.cfg id).magnetic = faults.getLsbD 3)) ∧
  modeName 0#2 = some .reset ∧ modeName 1#2 = some .calibration ∧ modeName 2#2 = some .motor ∧ modeName 3#2 = none ∧
  ∀ p : Ports, p.op = 5#4 → decodeOp p = .idunpkFb p.id

/-! ## PTLOOK and the parameter write -/

/-- PTLOOK (R119): the descriptor with the index, where indices are distinct, and `NotFound` where none has it; the codes
of the formats (R115) on the descriptor's ports. -/
def Obligations.PtlookFinds : Prop :=
  (∀ (s : State) (d : Descriptor), distinctIndices s.cfg.paramTable = true → d ∈ s.cfg.paramTable →
    exec (.ptlook d.index) s = .next { s with resp := some (.ok (.descriptor d.fmt d.bounds)) }) ∧
  (∀ (s : State) (index : BitVec 16), (∀ d ∈ s.cfg.paramTable, d.index ≠ index) →
    exec (.ptlook index) s = .next { s with resp := some (.raised .notFound) }) ∧
  (∀ (fmt : Fmt) (bounds : Option Bounds),
    portFound (.ok (.descriptor fmt bounds)) = some 1#1 ∧
    portDescFmt (.ok (.descriptor fmt bounds)) = some (fmtCode fmt) ∧
    portDescBounded (.ok (.descriptor fmt bounds)) = some (BitVec.ofBool bounds.isSome) ∧
    portDescBounds (.ok (.descriptor fmt bounds)) = bounds) ∧
  fmtCode .u8 = 0#2 ∧ fmtCode .i16 = 1#2 ∧ fmtCode .i32 = 2#2 ∧ fmtCode .f32 = 3#2 ∧
  ∀ p : Ports, p.op = 6#4 → decodeOp p = .ptlook p.index

/-- The value field of a write (R121): the four formats in both byte orders. -/
def Obligations.ValueFieldBytes : Prop :=
  ∀ (v : BitVec 32) (order : Order), ∃ b0 b1 b2 b3 : Byte,
    b0.toNat = v.toNat % 256 ∧ b1.toNat = v.toNat / 256 % 256 ∧ b2.toNat = v.toNat / 65536 % 256 ∧
    b3.toNat = v.toNat / 16777216 ∧
    serialise order .u8 v = ⟨b0, 0, 0, 0⟩ ∧
    serialise .little .i16 v = ⟨b0, b1, 0, 0⟩ ∧ serialise .big .i16 v = ⟨b1, b0, 0, 0⟩ ∧
    serialise .little .i32 v = ⟨b0, b1, b2, b3⟩ ∧ serialise .big .i32 v = ⟨b3, b2, b1, b0⟩ ∧
    serialise .little .f32 v = ⟨b0, b1, b2, b3⟩ ∧ serialise .big .f32 v = ⟨b3, b2, b1, b0⟩

/-- The way back: a value that fits its format is read back from its value field. R123 gives the little-endian reading;
the big-endian one is DEDUCED, the model's choice (log 21). -/
def Obligations.ValueFieldReadsBack : Prop :=
  ∀ (order : Order) (fmt : Fmt) (v : BitVec 32), valueFits fmt v = true →
    reinterpret order fmt (serialise order fmt v) = v

/-- FB_WRPARAM (R134, R120, R122): broken bounds are refused first, then a value that does not fit its format, then one
outside the bounds; every other write is built, with the index in its byte order, the reserved zeros and the value
field. The codes of the `fmt` port are those of R16. -/
def Obligations.WrparamBuildsOrRefuses : Prop :=
  (∀ (s : State) (target master : Byte) (index : BitVec 16) (fmt : Fmt) (bounds : Option Bounds) (v : BitVec 32),
    ((∃ b, bounds = some b ∧ qvalid s.cfg b.min b.max 16#8 = false) →
      exec (.fbWrparam target master index fmt bounds v) s
        = .next { s with resp := some (.raised .invalidOperand) }) ∧
    ((∀ b, bounds = some b → qvalid s.cfg b.min b.max 16#8 = true) → valueFits fmt v = false →
      exec (.fbWrparam target master index fmt bounds v) s = .next { s with resp := some (.raised .rangeError) }) ∧
    ((∃ b, bounds = some b ∧ qvalid s.cfg b.min b.max 16#8 = true ∧
        ¬((f64Value b.min).le (valueNum fmt v) = true ∧ (valueNum fmt v).le (f64Value b.max) = true)) →
      valueFits fmt v = true →
      exec (.fbWrparam target master index fmt bounds v) s = .next { s with resp := some (.raised .rangeError) }) ∧
    ((∀ b, bounds = some b → qvalid s.cfg b.min b.max 16#8 = true ∧
        (f64Value b.min).le (valueNum fmt v) = true ∧ (valueNum fmt v).le (f64Value b.max) = true) →
      valueFits fmt v = true →
      ∃ (id : Ident) (lo hi : Byte) (q : Quad),
        exec (.fbWrparam target master index fmt bounds v) s
          = .next { s with resp := some (.ok (.frame id 8#4
              (match s.cfg.pidxTxOrder with
                | .little => ⟨lo, hi, 0, 0, q.v0, q.v1, q.v2, q.v3⟩
                | .big => ⟨hi, lo, 0, 0, q.v0, q.v1, q.v2, q.v3⟩))) } ∧
        id.toNat = 0x12000000 + master.toNat * 256 + target.toNat ∧
        lo.toNat = index.toNat % 256 ∧ hi.toNat = index.toNat / 256 ∧ q = serialise s.cfg.pvalOrder fmt v)) ∧
  fmtOf 0#2 = .u8 ∧ fmtOf 1#2 = .i16 ∧ fmtOf 2#2 = .i32 ∧ fmtOf 3#2 = .f32 ∧
  ∀ p : Ports, p.op = 10#4 →
    decodeOp p = .fbWrparam p.target p.master p.index (fmtOf p.fmt)
      (if p.bounded = 1#1 then some ⟨p.min, p.max⟩ else none) p.val32

/-- What fits a format and what number it is, for the bounds check (R116): `n` units of one are `n · 2^1074` units. An
`f32` is the binary32 value of its pattern (R81), which binary64 holds: with sign bit, exponent field `e` and fraction
field `f`, an infinity or a NaN at `e = 255`, a subnormal of `f` times `2^-149` at `e = 0`, and else
`1.f × 2^(e − 127)`. -/
def Obligations.ValueReadings : Prop :=
  ∀ v : BitVec 32,
    (valueFits .u8 v = true ↔ v.toNat ≤ 255) ∧
    (valueFits .i16 v = true ↔ -32768 ≤ v.toInt ∧ v.toInt ≤ 32767) ∧
    valueFits .i32 v = true ∧ valueFits .f32 v = true ∧
    (valueNum .u8 v).isFinite = true ∧ (valueNum .u8 v).units = v.toNat * unitsPerOne ∧
    (valueNum .i16 v).isFinite = true ∧ (valueNum .i16 v).units = v.toInt * unitsPerOne ∧
    (valueNum .i32 v).isFinite = true ∧ (valueNum .i32 v).units = v.toInt * unitsPerOne ∧
    valueNum .f32 v = f32Value v ∧
    (v.toNat / 2 ^ 23 % 256 = 255 → v.toNat % 2 ^ 23 = 0 → f32Value v = .inf (v.getLsbD 31)) ∧
    (v.toNat / 2 ^ 23 % 256 = 255 → v.toNat % 2 ^ 23 ≠ 0 → (f32Value v).isNaN = true) ∧
    (v.toNat / 2 ^ 23 % 256 = 0 → f32Value v = .fin (v.getLsbD 31) (v.toNat % 2 ^ 23 * 2 ^ 925)) ∧
    (v.toNat / 2 ^ 23 % 256 ≠ 255 → v.toNat / 2 ^ 23 % 256 ≠ 0 →
      f32Value v = .fin (v.getLsbD 31)
        ((2 ^ 23 + v.toNat % 2 ^ 23) * 2 ^ (v.toNat / 2 ^ 23 % 256 - 1) * 2 ^ 925)) ∧
    (∀ neg mag, f32Value v = .fin neg mag → holdable mag ∧ mag < unitsOverflow)

/-! ## The frame builder -/

/-- FB_ENABLE (R131): identifier `0x03000000 | master << 8 | target`, no payload, always `OK`. -/
def Obligations.EnableFrame : Prop :=
  (∀ (s : State) (target master : Byte), ∃ id : Ident,
    exec (.fbEnable target master) s = .next { s with resp := some (.ok (.frame id 0#4 ⟨0, 0, 0, 0, 0, 0, 0, 0⟩)) } ∧
    id.toNat = 0x03000000 + master.toNat * 256 + target.toNat) ∧
  ∀ p : Ports, p.op = 7#4 → decodeOp p = .fbEnable p.target p.master

/-- FB_DISABLE (R132): identifier `0x04000000 | master << 8 | target`, eight zero bytes, always `OK`. -/
def Obligations.DisableFrame : Prop :=
  (∀ (s : State) (target master : Byte), ∃ id : Ident,
    exec (.fbDisable target master) s = .next { s with resp := some (.ok (.frame id 8#4 ⟨0, 0, 0, 0, 0, 0, 0, 0⟩)) } ∧
    id.toNat = 0x04000000 + master.toNat * 256 + target.toNat) ∧
  ∀ p : Ports, p.op = 8#4 → decodeOp p = .fbDisable p.target p.master

/-- FB_SETZERO (R133): identifier `0x06000000 | master << 8 | target`, one byte `01`, always `OK`. -/
def Obligations.SetZeroFrame : Prop :=
  (∀ (s : State) (target master : Byte), ∃ id : Ident,
    exec (.fbSetzero target master) s = .next { s with resp := some (.ok (.frame id 1#4 ⟨1, 0, 0, 0, 0, 0, 0, 0⟩)) } ∧
    id.toNat = 0x06000000 + master.toNat * 256 + target.toNat) ∧
  ∀ p : Ports, p.op = 9#4 → decodeOp p = .fbSetzero p.target p.master

/-- FB_RDPARAM (R135): identifier `0x11000000 | master << 8 | target`, the index in its byte order and six zero bytes,
whatever the index, always `OK`. -/
def Obligations.RdparamFrame : Prop :=
  (∀ (s : State) (target master : Byte) (index : BitVec 16), ∃ (id : Ident) (lo hi : Byte),
    exec (.fbRdparam target master index) s
      = .next { s with resp := some (.ok (.frame id 8#4
          (match s.cfg.pidxTxOrder with
            | .little => ⟨lo, hi, 0, 0, 0, 0, 0, 0⟩
            | .big => ⟨hi, lo, 0, 0, 0, 0, 0, 0⟩))) } ∧
    id.toNat = 0x11000000 + master.toNat * 256 + target.toNat ∧
    lo.toNat = index.toNat % 256 ∧ hi.toNat = index.toNat / 256) ∧
  ∀ p : Ports, p.op = 11#4 → decodeOp p = .fbRdparam p.target p.master p.index

/-- FB_MOTION (R136): five numbers give the frame of their five QENC codes over the five ranges, torque in the
identifier, the other four in the payload in their byte order; a NaN among them is `InvalidOperand`. -/
def Obligations.MotionFrame : Prop :=
  (∀ (s : State) (target : Byte) (torque angle velocity kp kd : F64), cfgValid s.cfg = true →
    (f64Value torque).isNaN = false → (f64Value angle).isNaN = false → (f64Value velocity).isNaN = false →
    (f64Value kp).isNaN = false → (f64Value kd).isNaN = false →
    ∃ (tq aq vq pq dq : BitVec 32) (id : Ident) (P : Buffer),
      exec (.qenc torque Config.tMin Config.tMax 16#8) s = .next { s with resp := some (.ok (.code tq)) } ∧
      exec (.qenc angle Config.pMin Config.pMax 16#8) s = .next { s with resp := some (.ok (.code aq)) } ∧
      exec (.qenc velocity Config.vMin Config.vMax 16#8) s = .next { s with resp := some (.ok (.code vq)) } ∧
      exec (.qenc kp Config.kpMin Config.kpMax 16#8) s = .next { s with resp := some (.ok (.code pq)) } ∧
      exec (.qenc kd Config.kdMin Config.kdMax 16#8) s = .next { s with resp := some (.ok (.code dq)) } ∧
      exec (.fbMotion target torque angle velocity kp kd) s = .next { s with resp := some (.ok (.frame id 8#4 P)) } ∧
      id.toNat = 0x01000000 + tq.toNat * 256 + target.toNat ∧
      ord s.cfg.mcOrder [P.b0, P.b1] = aq.toNat ∧ ord s.cfg.mcOrder [P.b2, P.b3] = vq.toNat ∧
      ord s.cfg.mcOrder [P.b4, P.b5] = pq.toNat ∧ ord s.cfg.mcOrder [P.b6, P.b7] = dq.toNat) ∧
  (∀ (s : State) (target : Byte) (torque angle velocity kp kd : F64),
    (f64Value torque).isNaN = true ∨ (f64Value angle).isNaN = true ∨ (f64Value velocity).isNaN = true ∨
      (f64Value kp).isNaN = true ∨ (f64Value kd).isNaN = true →
    exec (.fbMotion target torque angle velocity kp kd) s
      = .next { s with resp := some (.raised .invalidOperand) }) ∧
  ∀ p : Ports, p.op = 12#4 → decodeOp p = .fbMotion p.target p.torque p.angle p.velocity p.kp p.kd

/-- R242: an out-of-range argument of a motion command gives the frame of the edge value, with no warning; infinities
too. -/
def Obligations.MotionSaturates : Prop :=
  ∀ (s : State) (target : Byte) (torque angle velocity kp kd torque' angle' velocity' kp' kd' : F64),
    saturates torque torque' Config.tMin Config.tMax → saturates angle angle' Config.pMin Config.pMax →
    saturates velocity velocity' Config.vMin Config.vMax → saturates kp kp' Config.kpMin Config.kpMax →
    saturates kd kd' Config.kdMin Config.kdMax →
    exec (.fbMotion target torque angle velocity kp kd) s
      = exec (.fbMotion target torque' angle' velocity' kp' kd') s

/-- R136's corner cases: all operands at their minima, at their maxima, and at the middle of their ranges, where a tie
of the rounding gives `0x8000` under both tie rules. -/
def Obligations.MotionCorners : Prop :=
  ∀ (s : State) (target : Byte), cfgValid s.cfg = true →
    (∃ id : Ident,
      exec (.fbMotion target Config.tMin Config.pMin Config.vMin Config.kpMin Config.kdMin) s
        = .next { s with resp := some (.ok (.frame id 8#4 ⟨0, 0, 0, 0, 0, 0, 0, 0⟩)) } ∧
      id.toNat = 0x01000000 + target.toNat) ∧
    (∃ id : Ident,
      exec (.fbMotion target Config.tMax Config.pMax Config.vMax Config.kpMax Config.kdMax) s
        = .next { s with resp := some (.ok (.frame id 8#4 ⟨255, 255, 255, 255, 255, 255, 255, 255⟩)) } ∧
      id.toNat = 0x01FFFF00 + target.toNat) ∧
    ∃ id : Ident,
      exec (.fbMotion target 0x0000000000000000#64 0x0000000000000000#64 0x0000000000000000#64
          0x406F400000000000#64 0x4004000000000000#64) s
        = .next { s with resp := some (.ok (.frame id 8#4
            (match s.cfg.mcOrder with
              | .little => ⟨0, 128, 0, 128, 0, 128, 0, 128⟩
              | .big => ⟨128, 0, 128, 0, 128, 0, 128, 0⟩))) } ∧
      id.toNat = 0x01800000 + target.toNat

/-- R130: the identifier of every built frame but the motion-control frame reads back, in the request layout, as its
wire opcode, the master id zero-extended, and the target. -/
def Obligations.BuiltIdentifiersReadBack : Prop :=
  ∀ (s t : State) (target master : Byte) (id : Ident) (dlc : BitVec 4) (P : Buffer),
    t.resp = some (.ok (.frame id dlc P)) →
    (exec (.fbEnable target master) s = .next t →
      exec (.idunpkReq id) s = .next { s with resp := some (.ok (.requestFields 3#5 (0#8 ++ master) target)) }) ∧
    (exec (.fbDisable target master) s = .next t →
      exec (.idunpkReq id) s = .next { s with resp := some (.ok (.requestFields 4#5 (0#8 ++ master) target)) }) ∧
    (exec (.fbSetzero target master) s = .next t →
      exec (.idunpkReq id) s = .next { s with resp := some (.ok (.requestFields 6#5 (0#8 ++ master) target)) }) ∧
    (∀ index, exec (.fbRdparam target master index) s = .next t →
      exec (.idunpkReq id) s = .next { s with resp := some (.ok (.requestFields 17#5 (0#8 ++ master) target)) }) ∧
    ∀ index fmt bounds v, exec (.fbWrparam target master index fmt bounds v) s = .next t →
      exec (.idunpkReq id) s = .next { s with resp := some (.ok (.requestFields 18#5 (0#8 ++ master) target)) }

/-! ## The outbound frames of the `REQ` rows -/

/-- The six `REQ` rows with a builder complete with the frame of their row (R51, R54, R55, R57, R64). That such a row as
an instruction puts its frame together is the model's choice (log 6). -/
def Obligations.WireFramesAssemble : Prop :=
  (∀ (s : State) (master target : Byte),
    exec (.wireMotorEnable master target) s = exec (.fbEnable target master) s ∧
    exec (.wireMotorStop master target) s = exec (.fbDisable target master) s ∧
    exec (.wireSetMechanicalZero master target) s = exec (.fbSetzero target master) s ∧
    (∃ id : Ident, exec (.wireMotorEnable master target) s
        = .next { s with resp := some (.ok (.frame id 0#4 ⟨0, 0, 0, 0, 0, 0, 0, 0⟩)) } ∧
      id.toNat = 0x03000000 + master.toNat * 256 + target.toNat) ∧
    (∃ id : Ident, exec (.wireMotorStop master target) s
        = .next { s with resp := some (.ok (.frame id 8#4 ⟨0, 0, 0, 0, 0, 0, 0, 0⟩)) } ∧
      id.toNat = 0x04000000 + master.toNat * 256 + target.toNat) ∧
    ∃ id : Ident, exec (.wireSetMechanicalZero master target) s
        = .next { s with resp := some (.ok (.frame id 1#4 ⟨1, 0, 0, 0, 0, 0, 0, 0⟩)) } ∧
      id.toNat = 0x06000000 + master.toNat * 256 + target.toNat) ∧
  (∀ (s : State) (master target : Byte) (index : BitVec 16), ∃ (id : Ident) (P : Buffer),
    exec (.wireSingleParamRead master target index) s = .next { s with resp := some (.ok (.frame id 8#4 P)) } ∧
    id.toNat = 0x11000000 + master.toNat * 256 + target.toNat ∧
    ord s.cfg.pidxTxOrder [P.b0, P.b1] = index.toNat ∧ P.b2 = 0 ∧ P.b3 = 0 ∧
    P.b4 = 0 ∧ P.b5 = 0 ∧ P.b6 = 0 ∧ P.b7 = 0) ∧
  (∀ (s : State) (master target : Byte) (index : BitVec 16) (v : Quad), ∃ (id : Ident) (P : Buffer),
    exec (.wireSingleParamWrite master target index v) s = .next { s with resp := some (.ok (.frame id 8#4 P)) } ∧
    id.toNat = 0x12000000 + master.toNat * 256 + target.toNat ∧
    ord s.cfg.pidxTxOrder [P.b0, P.b1] = index.toNat ∧ P.b2 = 0 ∧ P.b3 = 0 ∧
    P.b4 = v.v0 ∧ P.b5 = v.v1 ∧ P.b6 = v.v2 ∧ P.b7 = v.v3) ∧
  ∀ (s : State) (data16 : BitVec 16) (target : Byte) (aq vq pq dq : BitVec 16), ∃ (id : Ident) (P : Buffer),
    exec (.wireMotorControl data16 target aq vq pq dq) s = .next { s with resp := some (.ok (.frame id 8#4 P)) } ∧
    id.toNat = 0x01000000 + data16.toNat * 256 + target.toNat ∧
    ord s.cfg.mcOrder [P.b0, P.b1] = aq.toNat ∧ ord s.cfg.mcOrder [P.b2, P.b3] = vq.toNat ∧
    ord s.cfg.mcOrder [P.b4, P.b5] = pq.toNat ∧ ord s.cfg.mcOrder [P.b6, P.b7] = dq.toNat

/-- The three `REQ` rows with no builder complete with their identifier alone (R60, R102, R137). That they do so is the
model's choice (log 7): the spec gives them no payload. -/
def Obligations.WireBareIdentifiers : Prop :=
  ∀ (s : State) (data16 : BitVec 16) (target : Byte),
    (∃ id : Ident, exec (.wireGetDeviceId data16 target) s = .next { s with resp := some (.ok (.ident id)) } ∧
      id.toNat = data16.toNat * 256 + target.toNat) ∧
    (∃ id : Ident, exec (.wireSetMotorCanId data16 target) s = .next { s with resp := some (.ok (.ident id)) } ∧
      id.toNat = 0x07000000 + data16.toNat * 256 + target.toNat) ∧
    ∃ id : Ident, exec (.wireParamTableWrite data16 target) s = .next { s with resp := some (.ok (.ident id)) } ∧
      id.toNat = 0x08000000 + data16.toNat * 256 + target.toNat

/-! ## The frame parser -/

/-- A frame of wire opcode 2 and length 8 parses to MotorFeedback (R152): the fields of the identifier, and four values
QDEC gives for the four 16-bit fields in their byte order over their ranges; at every other length it is a
`ProtocolError`. That the arm is an instruction and answers the same is the model's choice (log 5). -/
def Obligations.ParseMotorFeedback : Prop :=
  (∀ (s : State) (id : Ident) (dlc : BitVec 4) (B : Buffer), id.toNat / 2 ^ 24 = 2 → dlc ≠ 8#4 →
    exec (.fpParse id dlc B) s = .next { s with resp := some (.raised .protocolError) } ∧
    exec (.fpMotorFeedback id dlc B) s = .next { s with resp := some (.raised .protocolError) }) ∧
  ∀ (s : State) (id : Ident) (B : Buffer), cfgValid s.cfg = true → id.toNat / 2 ^ 24 = 2 →
    ∃ (aq vq tq cq : BitVec 32) (angle velocity torque temperature : F64) (faults : BitVec 6) (mode : BitVec 2)
        (motor master : Byte),
      exec (.fpParse id 8#4 B) s = .next { s with resp := some (.ok (.motorFeedback 2#5 faults mode motor master
        angle velocity torque temperature)) } ∧
      exec (.fpMotorFeedback id 8#4 B) s = .next { s with resp := some (.ok (.motorFeedback 2#5 faults mode motor master
        angle velocity torque temperature)) } ∧
      aq.toNat = ord s.cfg.fbOrder [B.b0, B.b1] ∧ vq.toNat = ord s.cfg.fbOrder [B.b2, B.b3] ∧
      tq.toNat = ord s.cfg.fbOrder [B.b4, B.b5] ∧ cq.toNat = ord s.cfg.fbOrder [B.b6, B.b7] ∧
      exec (.qdec aq Config.pMin Config.pMax 16#8) s = .next { s with resp := some (.ok (.real angle)) } ∧
      exec (.qdec vq Config.vMin Config.vMax 16#8) s = .next { s with resp := some (.ok (.real velocity)) } ∧
      exec (.qdec tq Config.tMin Config.tMax 16#8) s = .next { s with resp := some (.ok (.real torque)) } ∧
      exec (.qdec cq s.cfg.tempMin s.cfg.tempMax 16#8) s = .next { s with resp := some (.ok (.real temperature)) } ∧
      mode.toNat = id.toNat / 2 ^ 22 % 4 ∧ faults.toNat = id.toNat / 2 ^ 16 % 64 ∧
      motor.toNat = id.toNat / 2 ^ 8 % 256 ∧ master.toNat = id.toNat % 256 ∧
      inRange angle Config.pMin Config.pMax = true ∧ inRange velocity Config.vMin Config.vMax = true ∧
      inRange torque Config.tMin Config.tMax = true

/-- A frame of wire opcode 17 parses to ParameterFeedback at length 8 and is a `ProtocolError` at every other length
(R153); bytes 2 and 3 are not read. That the arm `fpParameterFeedback` is an instruction and answers the same is the
model's choice (log 5). -/
def Obligations.ParseParameterFeedback : Prop :=
  ∀ (s : State) (id : Ident) (dlc : BitVec 4) (B : Buffer), id.toNat / 2 ^ 24 = 17 →
    (dlc = 8#4 → ∃ index : BitVec 16,
      index.toNat = ord s.cfg.pidxRxOrder [B.b0, B.b1] ∧
      exec (.fpParse id dlc B) s
        = .next { s with resp := some (.ok (.parameterFeedback 17#5 index ⟨B.b4, B.b5, B.b6, B.b7⟩)) } ∧
      exec (.fpParameterFeedback id dlc B) s
        = .next { s with resp := some (.ok (.parameterFeedback 17#5 index ⟨B.b4, B.b5, B.b6, B.b7⟩)) }) ∧
    (dlc ≠ 8#4 →
      exec (.fpParse id dlc B) s = .next { s with resp := some (.raised .protocolError) } ∧
      exec (.fpParameterFeedback id dlc B) s = .next { s with resp := some (.raised .protocolError) })

/-- A frame of wire opcode 21 parses to Fault at every length up to 8 (R154): the sender's id, the bytes below the length
copied, zeros above it whatever was driven, and the length. That the arm `fpFault` is an instruction and answers the same is the
model's choice (log 5). -/
def Obligations.ParseFault : Prop :=
  ∀ (s : State) (id : Ident) (dlc : BitVec 4) (B : Buffer), id.toNat / 2 ^ 24 = 21 → dlc.toNat ≤ 8 →
    ∃ (motor : Byte) (raw : Buffer),
      exec (.fpParse id dlc B) s = .next { s with resp := some (.ok (.fault 21#5 motor raw dlc)) } ∧
      exec (.fpFault id dlc B) s = .next { s with resp := some (.ok (.fault 21#5 motor raw dlc)) } ∧
      motor.toNat = id.toNat / 2 ^ 8 % 256 ∧
      ∀ k < 8, getByte raw k = if k < dlc.toNat then getByte B k else 0

/-- A frame of any other wire opcode parses to Unknown with that opcode, at every length up to 8 and whatever its bytes
(R155). That the arm `fpUnknown` is an instruction and answers the same is the model's choice (log 5). -/
def Obligations.ParseUnknown : Prop :=
  ∀ (s : State) (id : Ident) (dlc : BitVec 4) (B : Buffer), id.toNat / 2 ^ 24 ≠ 2 → id.toNat / 2 ^ 24 ≠ 17 →
    id.toNat / 2 ^ 24 ≠ 21 → dlc.toNat ≤ 8 →
    ∃ opcode : BitVec 5, opcode.toNat = id.toNat / 2 ^ 24 ∧
      exec (.fpParse id dlc B) s = .next { s with resp := some (.ok (.unknown opcode)) } ∧
      exec (.fpUnknown id dlc B) s = .next { s with resp := some (.ok (.unknown opcode)) }

/-- When a frame is a `ProtocolError` (R151): the length is above 8, or the wire opcode is 2 or 17 and the length is not
8; in no other case. That the four arms are instructions, each with the same length checks on the frames of its wire
opcode, is the model's choice (log 5). -/
def Obligations.ProtocolErrorExactly : Prop :=
  (∀ (s : State) (id : Ident) (dlc : BitVec 4) (B : Buffer),
    (exec (.fpParse id dlc B) s = .next { s with resp := some (.raised .protocolError) } ↔
      8 < dlc.toNat ∨ ((id.toNat / 2 ^ 24 = 2 ∨ id.toNat / 2 ^ 24 = 17) ∧ dlc ≠ 8#4)) ∧
    (id.toNat / 2 ^ 24 = 2 →
      (exec (.fpMotorFeedback id dlc B) s = .next { s with resp := some (.raised .protocolError) } ↔ dlc ≠ 8#4)) ∧
    (id.toNat / 2 ^ 24 = 17 →
      (exec (.fpParameterFeedback id dlc B) s = .next { s with resp := some (.raised .protocolError) } ↔ dlc ≠ 8#4)) ∧
    (id.toNat / 2 ^ 24 = 21 →
      (exec (.fpFault id dlc B) s = .next { s with resp := some (.raised .protocolError) } ↔ 8 < dlc.toNat)) ∧
    (id.toNat / 2 ^ 24 ≠ 2 → id.toNat / 2 ^ 24 ≠ 17 → id.toNat / 2 ^ 24 ≠ 21 →
      (exec (.fpUnknown id dlc B) s = .next { s with resp := some (.raised .protocolError) } ↔ 8 < dlc.toNat))) ∧
  ∀ p : Ports, p.op = 13#4 → decodeOp p = .fpParse p.id p.dlc p.B

/-- R37: a read request built and its payload echoed under wire opcode 17 is parsed to the index asked for where the two
index orders agree, and to the byte-swapped index where they differ. -/
def Obligations.EchoedIndexSwaps : Prop :=
  ∀ (s : State) (target master : Byte) (index : BitVec 16), ∃ (id : Ident) (P : Buffer) (lo hi : Byte) (raw : Quad),
    exec (.fbRdparam target master index) s = .next { s with resp := some (.ok (.frame id 8#4 P)) } ∧
    index = hi ++ lo ∧
    exec (.fpParse id 8#4 P) s
      = .next { s with resp := some (.ok (.parameterFeedback 17#5
          (if s.cfg.pidxTxOrder = s.cfg.pidxRxOrder then index else lo ++ hi) raw)) }

/-! ## The host environment (spec/00_scope.md R6: outside the block; log 19) -/

/-- R205: a fault frame, from whatever motor, fails the outstanding request with its raw bytes and ends it; the permit
then passes to the first caller at the gate whose frame the transport takes, with a record of its own, and to none if
there is none (R201, R203, R207). With nothing outstanding the frame is discarded. That a caller whose frame the
transport refuses passes the permit on at once is the model's choice (log 19). -/
def Obligations.FaultFrameFailsOutstanding : Prop :=
  ∀ (c : Cfg) (b : Bus) (id : Ident) (dlc : BitVec 4) (B : Buffer), b.running = true → id.toNat / 2 ^ 24 = 21 →
    dlc.toNat ≤ 8 →
    (∀ o, b.outstanding = some o → ∃ (b' : Bus) (raw : Buffer) (notices : List Notice),
      busStep c b (.received id dlc B) = (b', .failed o.caller (.faultFrame raw) :: notices) ∧
      (∀ k < 8, getByte raw k = if k < dlc.toNat then getByte B k else 0) ∧
      b'.running = true ∧ b'.clock = b.clock ∧
      ((∃ (refused : List Submission) (s : Submission) (rest : List Submission) (o' : Outstanding),
          b.gate = refused ++ s :: rest ∧ (∀ x ∈ refused, x.sendAccepted = false) ∧ s.sendAccepted = true ∧
          b'.outstanding = some o' ∧ o'.caller = s.caller ∧ o'.target.toNat = s.frame.id.toNat % 256 ∧
          o'.opcode.toNat = s.frame.id.toNat / 2 ^ 24 ∧ o'.createdAt = b.clock ∧
          o'.timeoutMs = s.timeoutMs.getD 2000 ∧ b'.gate = rest ∧
          notices = (refused.map fun x => .failed x.caller .transport) ++ [.sent s.caller s.frame]) ∨
        ((∀ x ∈ b.gate, x.sendAccepted = false) ∧ b'.outstanding = none ∧ b'.gate = [] ∧
          notices = b.gate.map fun x => .failed x.caller .transport))) ∧
    (b.outstanding = none → busStep c b (.received id dlc B) = (b, [.discarded]))

/-- R208: a frame that parses to Unknown or raises `ProtocolError` is dropped and settles nothing. -/
def Obligations.DroppedFramesSettleNothing : Prop :=
  ∀ (c : Cfg) (b : Bus) (id : Ident) (dlc : BitVec 4) (B : Buffer), b.running = true →
    8 < dlc.toNat ∨ ((id.toNat / 2 ^ 24 = 2 ∨ id.toNat / 2 ^ 24 = 17) ∧ dlc ≠ 8#4) ∨
      (id.toNat / 2 ^ 24 ≠ 2 ∧ id.toNat / 2 ^ 24 ≠ 17 ∧ id.toNat / 2 ^ 24 ≠ 21) →
    busStep c b (.received id dlc B) = (b, [.dropped])

/-! ## The arithmetic steps -/

/-- Each arithmetic step of finite operands is the one rounding of its exact result (R9, R82): of the sum, the
difference, the product, and the quotient by a divisor that is not zero, all in units of the least positive subnormal
(G1, G2; log 13). The rounding is infinite exactly where the magnitude, rounded with the exponent unbounded, is `2^1024`
or more, which is where it is at least `2^1024 − 2^970`. -/
def Obligations.ArithmeticRoundsOnce : Prop :=
  (∀ (na nb : Bool) (ma mb : Nat),
    roundsTo ((Flt.fin na ma).units + (Flt.fin nb mb).units) 1 (na && nb) (fadd (.fin na ma) (.fin nb mb)) ∧
    roundsTo ((Flt.fin na ma).units - (Flt.fin nb mb).units) 1 (na && !nb) (fsub (.fin na ma) (.fin nb mb)) ∧
    roundsTo ((Flt.fin na ma).units * (Flt.fin nb mb).units) unitsPerOne (na != nb)
      (fmul (.fin na ma) (.fin nb mb)) ∧
    (mb ≠ 0 →
      roundsTo ((if nb then -(Flt.fin na ma).units else (Flt.fin na ma).units) * unitsPerOne) mb (na != nb)
        (fdiv (.fin na ma) (.fin nb mb)))) ∧
  unitsPerOne = 2 ^ 1074 ∧ unitsOverflow = 2 ^ 1024 * unitsPerOne ∧
  ∀ n d : Nat, 0 < d → (unitsOverflow ≤ roundUnits n d ↔ overflowFrom * d ≤ n)
end

