-- ==== Sys2Proof/Laws/Bits.lean ====
section
/-! SUPPORT. Laws of the bit fields, byte orders and payload buffers. -/

namespace Sys2Proof.Machine

/-! ## Identifier fields -/

@[simp] theorem idOpcode_packId (o : BitVec 5) (d : BitVec 16) (t : Byte) : idOpcode (packId o d t) = o := by
  apply BitVec.eq_of_getLsbD_eq
  intro i hi
  simp only [idOpcode, packId, BitVec.getLsbD_extractLsb', BitVec.getLsbD_append]
  rcases (by omega : i = 0 ∨ i = 1 ∨ i = 2 ∨ i = 3 ∨ i = 4) with rfl | rfl | rfl | rfl | rfl <;> simp

@[simp] theorem idData16_packId (o : BitVec 5) (d : BitVec 16) (t : Byte) : idData16 (packId o d t) = d := by
  apply BitVec.eq_of_getLsbD_eq
  intro i hi
  simp only [idData16, packId, BitVec.getLsbD_extractLsb', BitVec.getLsbD_append]
  interval_cases i <;> simp

@[simp] theorem idLow_packId (o : BitVec 5) (d : BitVec 16) (t : Byte) : idLow (packId o d t) = t := by
  apply BitVec.eq_of_getLsbD_eq
  intro i hi
  simp only [idLow, packId, BitVec.getLsbD_extractLsb', BitVec.getLsbD_append]
  interval_cases i <;> simp

@[simp] theorem idMid_packId_master (o : BitVec 5) (m t : Byte) : idMid (packId o (masterData16 m) t) = m := by
  apply BitVec.eq_of_getLsbD_eq
  intro i hi
  simp only [idMid, packId, masterData16, BitVec.getLsbD_extractLsb', BitVec.getLsbD_append]
  interval_cases i <;> simp

@[simp] theorem idHigh_packId_master (o : BitVec 5) (m t : Byte) : idHigh (packId o (masterData16 m) t) = 0#8 := by
  apply BitVec.eq_of_getLsbD_eq
  intro i hi
  simp only [idHigh, packId, masterData16, BitVec.getLsbD_extractLsb', BitVec.getLsbD_append]
  interval_cases i <;> simp

/-- The three fields of the request layout cover the identifier (R103). -/
theorem packId_fields (id : Ident) : packId (idOpcode id) (idData16 id) (idLow id) = id := by
  apply BitVec.eq_of_getLsbD_eq
  intro i hi
  simp only [idOpcode, idData16, idLow, packId, BitVec.getLsbD_append, BitVec.getLsbD_extractLsb']
  interval_cases i <;> simp

/-- The request layout as a number (R102). -/
theorem packId_toNat (o : BitVec 5) (d : BitVec 16) (t : Byte) :
    (packId o d t).toNat = o.toNat * 2 ^ 24 + d.toNat * 2 ^ 8 + t.toNat := by
  have hd := d.isLt
  have ht := t.isLt
  unfold packId
  rw [BitVec.toNat_append, BitVec.toNat_append, ← Nat.shiftLeft_add_eq_or_of_lt ht,
    ← Nat.shiftLeft_add_eq_or_of_lt hd]
  simp only [Nat.shiftLeft_eq]
  ring

theorem masterData16_toNat (m : Byte) : (masterData16 m).toNat = m.toNat := by
  have := m.isLt
  simp [masterData16]
  omega

/-- The fields of the two layouts as numbers (R103, R104). -/
theorem idOpcode_toNat (id : Ident) : (idOpcode id).toNat = id.toNat / 2 ^ 24 := by
  have := id.isLt
  simp only [idOpcode, BitVec.extractLsb'_toNat, Nat.shiftRight_eq_div_pow]
  omega

theorem idData16_toNat (id : Ident) : (idData16 id).toNat = id.toNat / 2 ^ 8 % 2 ^ 16 := by
  simp only [idData16, BitVec.extractLsb'_toNat, Nat.shiftRight_eq_div_pow]

theorem idLow_toNat (id : Ident) : (idLow id).toNat = id.toNat % 2 ^ 8 := by
  simp [idLow, BitVec.extractLsb'_toNat]

theorem idMid_toNat (id : Ident) : (idMid id).toNat = id.toNat / 2 ^ 8 % 2 ^ 8 := by
  simp only [idMid, BitVec.extractLsb'_toNat, Nat.shiftRight_eq_div_pow]

theorem idMode_toNat (id : Ident) : (idMode id).toNat = id.toNat / 2 ^ 22 % 2 ^ 2 := by
  simp only [idMode, BitVec.extractLsb'_toNat, Nat.shiftRight_eq_div_pow]

theorem idFaults_toNat (id : Ident) : (idFaults id).toNat = id.toNat / 2 ^ 16 % 2 ^ 6 := by
  simp only [idFaults, BitVec.extractLsb'_toNat, Nat.shiftRight_eq_div_pow]

/-- A wire opcode is a number below 32. -/
theorem idOpcode_eq_iff (id : Ident) (k : Nat) (hk : k < 32) :
    idOpcode id = BitVec.ofNat 5 k ↔ id.toNat / 2 ^ 24 = k := by
  rw [← idOpcode_toNat]
  constructor
  · intro h
    rw [h, BitVec.toNat_ofNat]
    omega
  · intro h
    apply BitVec.eq_of_toNat_eq
    rw [h, BitVec.toNat_ofNat]
    omega

/-- A mask over the wire opcode compares the wire opcode (R64). -/
theorem opcodeMask_fits (id : Ident) (m : String) (o : BitVec 5) :
    rowFits ⟨m, 0x1F000000#29, packId o 0 0⟩ id = (idOpcode id == o) := by
  have key : id &&& 0x1F000000#29 = packId (idOpcode id) 0 0 := by
    apply BitVec.eq_of_getLsbD_eq
    intro i hi
    simp only [idOpcode, packId, BitVec.getLsbD_append, BitVec.getLsbD_extractLsb', BitVec.getLsbD_and]
    interval_cases i <;> simp
  rw [Bool.eq_iff_iff]
  simp only [rowFits, key, beq_iff_eq]
  constructor
  · intro h
    have := congrArg idOpcode h
    simpa using this
  · intro h
    rw [h]

/-- A mask over the wire opcode and identifier bits 23 to 16 compares the wire opcode and asks those bits to be zero
(R59 (a), R64). -/
theorem builtMask_fits (id : Ident) (m : String) (o : BitVec 5) :
    rowFits ⟨m, 0x1FFF0000#29, packId o 0 0⟩ id = (idOpcode id == o && idHigh id == 0#8) := by
  have key : id &&& 0x1FFF0000#29 = packId (idOpcode id) (idHigh id ++ 0#8) 0 := by
    apply BitVec.eq_of_getLsbD_eq
    intro i hi
    simp only [idOpcode, idHigh, packId, BitVec.getLsbD_append, BitVec.getLsbD_extractLsb', BitVec.getLsbD_and]
    interval_cases i <;> simp
  rw [Bool.eq_iff_iff]
  simp only [rowFits, key, beq_iff_eq, Bool.and_eq_true]
  constructor
  · intro h
    have h1 := congrArg idOpcode h
    have h2 := congrArg idData16 h
    simp only [idOpcode_packId, idData16_packId] at h1 h2
    refine ⟨h1, ?_⟩
    have h3 := congrArg (fun x : BitVec 16 => x.extractLsb' 8 8) h2
    have h4 : (idHigh id ++ 0#8 : BitVec 16).extractLsb' 8 8 = idHigh id := by
      apply BitVec.eq_of_getLsbD_eq
      intro i hi
      simp only [BitVec.getLsbD_extractLsb', BitVec.getLsbD_append]
      interval_cases i <;> simp
    simp only [h4] at h3
    exact h3
  · rintro ⟨h1, h2⟩
    rw [h1, h2]
    rfl

/-! ## Byte orders -/

theorem le_toLe (n v : Nat) : le (toLe v n) = v % 256 ^ n := by
  induction n generalizing v with
  | zero => simp [toLe, le, Nat.mod_one]
  | succ n ih =>
    simp only [toLe, le, ih, BitVec.toNat_ofNat]
    have h := Nat.mod_mul (x := v) (a := 256) (b := 256 ^ n)
    rw [show 256 ^ (n + 1) = 256 * 256 ^ n by ring, h]

theorem be_toBe (n v : Nat) : be (toBe v n) = v % 256 ^ n := by
  simp [be, toBe, le_toLe]

/-- A number put into bytes and read back in the same order is itself. -/
theorem ord_toOrd (o : Order) (n v : Nat) : ord o (toOrd o v n) = v % 256 ^ n := by
  cases o
  · exact le_toLe n v
  · exact be_toBe n v

theorem toOrd_two (o : Order) (v : Nat) :
    toOrd o v 2 = match o with
      | .little => [BitVec.ofNat 8 v, BitVec.ofNat 8 (v / 256)]
      | .big => [BitVec.ofNat 8 (v / 256), BitVec.ofNat 8 v] := by
  cases o <;> rfl

/-! ## Payload buffers -/

/-- Reading a byte after writing one: the written byte there, the old byte elsewhere. -/
theorem getByte_putByte (B : Buffer) (j k : Nat) (v : Byte) (h : k < 8) :
    getByte (putByte B k v) j = if j = k then v else getByte B j := by
  interval_cases k <;> rcases j with _ | _ | _ | _ | _ | _ | _ | _ | j <;> simp [putByte, getByte]

/-- What `MemWrite` leaves and writes: the listed bytes from `off` on, every other byte as before (R34). -/
theorem getByte_memWrite (vs : List Byte) (B : Buffer) (off j : Nat) (h : off + vs.length ≤ 8) :
    getByte (memWrite B off vs) j =
      if off ≤ j ∧ j < off + vs.length then vs.getD (j - off) 0 else getByte B j := by
  induction vs generalizing B off with
  | nil =>
    have : ¬(off ≤ j ∧ j < off + ([] : List Byte).length) := by simp
    rw [if_neg this]
    rfl
  | cons v vs ih =>
    simp only [List.length_cons] at h
    rw [memWrite, ih (putByte B off v) (off + 1) (by omega), getByte_putByte _ _ _ _ (by omega)]
    by_cases hj : off ≤ j ∧ j < off + (v :: vs).length
    · rw [if_pos hj]
      by_cases he : j = off
      · subst he
        simp
      · simp only [List.length_cons] at hj
        rw [if_pos (by omega)]
        obtain ⟨d, rfl⟩ : ∃ d, j = off + 1 + d := ⟨j - (off + 1), by omega⟩
        have h1 : off + 1 + d - (off + 1) = d := by omega
        have h2 : off + 1 + d - off = d + 1 := by omega
        rw [h1, h2]
        simp
    · rw [if_neg hj]
      simp only [List.length_cons] at hj
      rw [if_neg (by omega), if_neg (by omega)]

/-- Two buffers with the same eight bytes are the same. -/
theorem buffer_ext (A B : Buffer) (h : ∀ k < 8, getByte A k = getByte B k) : A = B := by
  have h0 := h 0 (by omega); have h1 := h 1 (by omega); have h2 := h 2 (by omega); have h3 := h 3 (by omega)
  have h4 := h 4 (by omega); have h5 := h 5 (by omega); have h6 := h 6 (by omega); have h7 := h 7 (by omega)
  cases A; cases B
  simp only [getByte] at *
  simp [*]

/-- The payload `PARAM` byte by byte (R54, R122). -/
theorem paramBuffer_bytes (c : Cfg) (index : BitVec 16) (v : Quad) :
    paramBuffer c index v = match c.pidxTxOrder with
      | .little => ⟨BitVec.ofNat 8 index.toNat, BitVec.ofNat 8 (index.toNat / 256), 0, 0, v.v0, v.v1, v.v2, v.v3⟩
      | .big => ⟨BitVec.ofNat 8 (index.toNat / 256), BitVec.ofNat 8 index.toNat, 0, 0, v.v0, v.v1, v.v2, v.v3⟩ := by
  unfold paramBuffer writeU16
  rw [toOrd_two]
  cases c.pidxTxOrder <;> rfl

/-- A two-byte field written is read back in the same order. -/
theorem readU16_pair (o : Order) (B : Buffer) (off : Nat) (v : BitVec 16)
    (h : memRead B off 2 = toOrd o v.toNat 2) : readU16 o B off = v := by
  apply BitVec.eq_of_toNat_eq
  rw [readU16, h, ord_toOrd, BitVec.toNat_ofNat]
  have := v.isLt
  omega

theorem readU16_paramBuffer (c : Cfg) (index : BitVec 16) (v : Quad) :
    readU16 c.pidxTxOrder (paramBuffer c index v) 0 = index := by
  apply readU16_pair
  rw [paramBuffer_bytes, toOrd_two]
  cases c.pidxTxOrder <;> rfl

theorem readQuad_paramBuffer (c : Cfg) (index : BitVec 16) (v : Quad) : readQuad (paramBuffer c index v) = v := by
  rw [paramBuffer_bytes]
  cases c.pidxTxOrder <;> rfl

/-- The payload `MOTION` read back field by field (R55). -/
theorem readU16_motionBuffer (c : Cfg) (a v p d : BitVec 16) :
    readU16 c.mcOrder (motionBuffer c a v p d) 0 = a ∧ readU16 c.mcOrder (motionBuffer c a v p d) 2 = v ∧
    readU16 c.mcOrder (motionBuffer c a v p d) 4 = p ∧ readU16 c.mcOrder (motionBuffer c a v p d) 6 = d := by
  refine ⟨?_, ?_, ?_, ?_⟩ <;> apply readU16_pair <;>
    (unfold motionBuffer writeU16; simp only [toOrd_two]; cases c.mcOrder <;> rfl)

@[simp] theorem fmtOf_fmtCode (f : Fmt) : fmtOf (fmtCode f) = f := by cases f <;> rfl

/-- The wire opcode enumeration and its codes (R58). -/
@[simp] theorem wireOpcodeOf_wireCode (w : WireOpcode) : wireOpcodeOf (wireCode w) = some w := by cases w <;> rfl

end Sys2Proof.Machine
end

