-- ==== Sys2Proof/Laws/Float.lean ====
section
/-! SUPPORT. Laws of the exact arithmetic: the rounding of fractions, once for all. -/

namespace Sys2Proof.Machine

/-! ## Division to the nearest integer -/

/-- The nearest integer is within half a divisor, and even where it is exactly half a divisor away. -/
theorem divNearestEven_spec (n d : Nat) (hd : 0 < d) :
    2 * n ≤ 2 * (divNearestEven n d * d) + d ∧ 2 * (divNearestEven n d * d) ≤ 2 * n + d ∧
    (2 * n = 2 * (divNearestEven n d * d) + d ∨ 2 * (divNearestEven n d * d) = 2 * n + d →
      divNearestEven n d % 2 = 0) := by
  have h := Nat.div_add_mod n d
  have hr := Nat.mod_lt n hd
  rw [Nat.mul_comm] at h
  unfold divNearestEven
  simp only []
  split
  · refine ⟨by omega, by omega, ?_⟩
    rintro (h1 | h1) <;> omega
  · split
    · have e : (n / d + 1) * d = n / d * d + d := by ring
      rw [e]
      refine ⟨by omega, by omega, ?_⟩
      rintro (h1 | h1) <;> omega
    · split
      · refine ⟨by omega, by omega, fun _ => ?_⟩
        assumption
      · have e : (n / d + 1) * d = n / d * d + d := by ring
        rw [e]
        refine ⟨by omega, by omega, fun _ => ?_⟩
        omega

/-- A greater fraction has no smaller nearest integer. -/
theorem divNearestEven_mono (n d n' d' : Nat) (hd : 0 < d) (hd' : 0 < d') (h : n * d' ≤ n' * d) :
    divNearestEven n d ≤ divNearestEven n' d' := by
  obtain ⟨-, a2, a3⟩ := divNearestEven_spec n d hd
  obtain ⟨b1, -, b3⟩ := divNearestEven_spec n' d' hd'
  generalize divNearestEven n d = r at *
  generalize divNearestEven n' d' = r' at *
  by_contra hlt
  have hlt : r' + 1 ≤ r := by omega
  have e1 : 2 * (r * d) * d' ≤ (2 * n + d) * d' := Nat.mul_le_mul_right _ a2
  have e2 : 2 * n' * d ≤ (2 * (r' * d') + d') * d := Nat.mul_le_mul_right _ b1
  have e3 : (r' + 1) * (d * d') ≤ r * (d * d') := Nat.mul_le_mul_right _ hlt
  have hp : 0 < d * d' := Nat.mul_pos hd hd'
  have f1 : 2 * (r * d) * d' = 2 * (r * (d * d')) := by ring
  have f2 : (2 * n + d) * d' = 2 * (n * d') + d * d' := by ring
  have f3 : 2 * n' * d = 2 * (n' * d) := by ring
  have f4 : (2 * (r' * d') + d') * d = 2 * (r' * (d * d')) + d * d' := by ring
  have f5 : (r' + 1) * (d * d') = r' * (d * d') + d * d' := by ring
  rw [f1, f2] at e1
  rw [f3, f4] at e2
  rw [f5] at e3
  have g1 : 2 * (r * d) * d' = (2 * n + d) * d' := by rw [f1, f2]; omega
  have g2 : 2 * n' * d = (2 * (r' * d') + d') * d := by rw [f3, f4]; omega
  have g3 : r * (d * d') = (r' + 1) * (d * d') := by rw [f5]; omega
  have k1 := Nat.eq_of_mul_eq_mul_right hd' g1
  have k2 := Nat.eq_of_mul_eq_mul_right hd g2
  have k3 := Nat.eq_of_mul_eq_mul_right hp g3
  have := a3 (.inr k1)
  have := b3 (.inl k2)
  omega

/-- A whole number of divisors is divided exactly. -/
theorem divNearestEven_mul (w d : Nat) (hd : 0 < d) : divNearestEven (w * d) d = w := by
  obtain ⟨h1, h2, -⟩ := divNearestEven_spec (w * d) d hd
  generalize divNearestEven (w * d) d = r at *
  rcases Nat.lt_trichotomy r w with h | h | h
  · have : (r + 1) * d ≤ w * d := Nat.mul_le_mul_right _ h
    have e : (r + 1) * d = r * d + d := by ring
    omega
  · exact h
  · have : (w + 1) * d ≤ r * d := Nat.mul_le_mul_right _ h
    have e : (w + 1) * d = w * d + d := by ring
    omega

/-! ## The binade of a number of units -/

/-- Above `2^52` units the shift brings the number into the 53-bit range. -/
theorem binadeShift_spec (q : Nat) :
    q < 2 ^ (53 + binadeShift q) ∧ (0 < binadeShift q → 2 ^ (52 + binadeShift q) ≤ q) := by
  unfold binadeShift
  rcases Nat.eq_zero_or_pos q with rfl | hq
  · simp
  · have h1 := Nat.lt_log2_self (n := q)
    have h2 := Nat.log2_self_le (n := q) (by omega)
    constructor
    · exact lt_of_lt_of_le h1 (Nat.pow_le_pow_right (by omega) (by omega))
    · intro h
      rwa [show 52 + (q.log2 - 52) = q.log2 by omega]

theorem binadeShift_mono {q q' : Nat} (h : q ≤ q') : binadeShift q ≤ binadeShift q' := by
  by_contra hlt
  obtain ⟨h1, -⟩ := binadeShift_spec q'
  obtain ⟨-, h2⟩ := binadeShift_spec q
  have h2 := h2 (by omega)
  have : 2 ^ (53 + binadeShift q') ≤ 2 ^ (52 + binadeShift q) := Nat.pow_le_pow_right (by omega) (by omega)
  omega

/-! ## Rounding -/

/-- The rounded significand lies between `2^52` (above the first binade) and `2^53`. -/
theorem roundSignificand_bounds (n d : Nat) (hd : 0 < d) :
    divNearestEven n (d * 2 ^ binadeShift (n / d)) ≤ 2 ^ 53 ∧
    (0 < binadeShift (n / d) → 2 ^ 52 ≤ divNearestEven n (d * 2 ^ binadeShift (n / d))) := by
  obtain ⟨h1, h2⟩ := binadeShift_spec (n / d)
  generalize hk : binadeShift (n / d) = k at *
  have hp : 0 < d * 2 ^ k := Nat.mul_pos hd (by positivity)
  constructor
  · have := divNearestEven_mono n (d * 2 ^ k) (2 ^ 53 * 1) 1 hp (by omega) (by
      have : n < 2 ^ (53 + k) * d := (Nat.div_lt_iff_lt_mul hd).mp h1
      have e : 2 ^ (53 + k) * d = 2 ^ 53 * 1 * (d * 2 ^ k) := by rw [Nat.pow_add]; ring
      omega)
    rwa [divNearestEven_mul _ _ (by omega)] at this
  · intro h0
    have := divNearestEven_mono (2 ^ 52 * 1) 1 n (d * 2 ^ k) (by omega) hp (by
      have : 2 ^ (52 + k) * d ≤ n := (Nat.le_div_iff_mul_le hd).mp (h2 h0)
      have e : 2 ^ (52 + k) * d = 2 ^ 52 * 1 * (d * 2 ^ k) := by rw [Nat.pow_add]; ring
      omega)
    rwa [divNearestEven_mul _ _ (by omega)] at this

/-- A rounded fraction is held by binary64. -/
theorem roundUnits_holdable (n d : Nat) (hd : 0 < d) : holdable (roundUnits n d) := by
  obtain ⟨h, -⟩ := roundSignificand_bounds n d hd
  unfold roundUnits
  rcases Nat.lt_or_eq_of_le h with h | h
  · exact ⟨_, _, h, rfl⟩
  · refine ⟨2 ^ 52, binadeShift (n / d) + 1, by decide, ?_⟩
    simp only [h]
    ring

/-- A greater fraction is not rounded to less. -/
theorem roundUnits_mono (n d n' d' : Nat) (hd : 0 < d) (hd' : 0 < d') (h : n * d' ≤ n' * d) :
    roundUnits n d ≤ roundUnits n' d' := by
  have hq : n / d ≤ n' / d' := by
    rw [Nat.le_div_iff_mul_le hd']
    have h1 := Nat.div_mul_le_self n d
    have h2 : n / d * d * d' ≤ n' * d := le_trans (Nat.mul_le_mul_right _ h1) h
    have h3 : n / d * d' * d ≤ n' * d := by
      rw [show n / d * d' * d = n / d * d * d' by ring]; exact h2
    exact Nat.le_of_mul_le_mul_right h3 hd
  have hk := binadeShift_mono hq
  obtain ⟨a, -⟩ := roundSignificand_bounds n d hd
  obtain ⟨-, b⟩ := roundSignificand_bounds n' d' hd'
  unfold roundUnits
  simp only
  rcases Nat.lt_or_eq_of_le hk with hk | hk
  · have b := b (by omega)
    calc _ ≤ 2 ^ 53 * 2 ^ binadeShift (n / d) := Nat.mul_le_mul_right _ a
      _ = 2 ^ (53 + binadeShift (n / d)) := by rw [Nat.pow_add]
      _ ≤ 2 ^ (52 + binadeShift (n' / d')) := Nat.pow_le_pow_right (by omega) (by omega)
      _ = 2 ^ 52 * 2 ^ binadeShift (n' / d') := by rw [Nat.pow_add]
      _ ≤ _ := Nat.mul_le_mul_right _ b
  · rw [hk]
    refine Nat.mul_le_mul_right _ (divNearestEven_mono _ _ _ _ (Nat.mul_pos hd (by positivity))
      (Nat.mul_pos hd' (by positivity)) ?_)
    have := Nat.mul_le_mul_right (2 ^ binadeShift (n' / d')) h
    rwa [Nat.mul_assoc, Nat.mul_assoc] at this

/-- Equal fractions are rounded alike. -/
theorem roundUnits_congr (n d n' d' : Nat) (hd : 0 < d) (hd' : 0 < d') (h : n * d' = n' * d) :
    roundUnits n d = roundUnits n' d' :=
  Nat.le_antisymm (roundUnits_mono n d n' d' hd hd' h.le) (roundUnits_mono n' d' n d hd' hd h.ge)

/-- What binary64 holds is rounded to itself. -/
theorem roundUnits_exact (w d : Nat) (hd : 0 < d) (h : holdable w) : roundUnits (w * d) d = w := by
  obtain ⟨sig, e, hs, rfl⟩ := h
  have hq : sig * 2 ^ e * d / d = sig * 2 ^ e := Nat.mul_div_cancel _ hd
  obtain ⟨-, h2⟩ := binadeShift_spec (sig * 2 ^ e)
  have hdvd : 2 ^ binadeShift (sig * 2 ^ e) ∣ sig * 2 ^ e := by
    rcases Nat.le_total (binadeShift (sig * 2 ^ e)) e with hle | hle
    · exact Dvd.dvd.mul_left (pow_dvd_pow 2 hle) sig
    · rcases Nat.eq_or_lt_of_le hle with he | hlt
      · rw [← he]; exact Dvd.intro_left _ rfl
      · exfalso
        have h3 := h2 (by omega)
        have h4 : sig * 2 ^ e < 2 ^ 53 * 2 ^ e := Nat.mul_lt_mul_of_pos_right hs (by positivity)
        rw [← Nat.pow_add] at h4
        have h5 : 2 ^ (53 + e) ≤ 2 ^ (52 + binadeShift (sig * 2 ^ e)) := Nat.pow_le_pow_right (by omega) (by omega)
        omega
  obtain ⟨m, hm⟩ := hdvd
  unfold roundUnits
  simp only [hq]
  generalize hk : binadeShift (sig * 2 ^ e) = k at *
  rw [hm, show 2 ^ k * m * d = m * (d * 2 ^ k) by ring, divNearestEven_mul _ _ (Nat.mul_pos hd (by positivity))]
  ring

/-- The error of a rounding is at most half the spacing of its binade, which is at most a `2^52`nd of the value above
the first binade and one unit in it. -/
theorem roundUnits_error (n d : Nat) (hd : 0 < d) :
    2 * n ≤ 2 * (roundUnits n d * d) + d * 2 ^ binadeShift (n / d) ∧
    2 * (roundUnits n d * d) ≤ 2 * n + d * 2 ^ binadeShift (n / d) ∧
    (0 < binadeShift (n / d) → 2 ^ 52 * (d * 2 ^ binadeShift (n / d)) ≤ n) := by
  obtain ⟨-, h2⟩ := binadeShift_spec (n / d)
  have hp : 0 < d * 2 ^ binadeShift (n / d) := Nat.mul_pos hd (by positivity)
  obtain ⟨a, b, -⟩ := divNearestEven_spec n _ hp
  have e : roundUnits n d * d = divNearestEven n (d * 2 ^ binadeShift (n / d)) * (d * 2 ^ binadeShift (n / d)) := by
    unfold roundUnits
    ring
  rw [e]
  refine ⟨a, b, fun h0 => ?_⟩
  have : 2 ^ (52 + binadeShift (n / d)) * d ≤ n := (Nat.le_div_iff_mul_le hd).mp (h2 h0)
  calc _ = 2 ^ (52 + binadeShift (n / d)) * d := by rw [Nat.pow_add]; ring
    _ ≤ n := this

/-! ## Patterns -/

/-- A finite binary64 pattern stands for a value that binary64 holds, below the overflow. -/
theorem f64Value_holdable (x : F64) (neg : Bool) (mag : Nat) (h : f64Value x = .fin neg mag) :
    holdable mag ∧ mag < unitsOverflow := by
  have hf : f64Fraction x < 2 ^ 52 := (x.extractLsb' 0 52).isLt
  have he : f64Exponent x < 2 ^ 11 := (x.extractLsb' 52 11).isLt
  unfold f64Value at h
  split at h
  · split at h <;> cases h
  · split at h
    · cases h
      have hu : 2 ^ 52 ≤ unitsOverflow := Nat.pow_le_pow_right (by omega) (by omega)
      exact ⟨⟨f64Fraction x, 0, by omega, by simp⟩, by omega⟩
    · cases h
      refine ⟨⟨2 ^ 52 + f64Fraction x, f64Exponent x - 1, by omega, rfl⟩, ?_⟩
      calc (2 ^ 52 + f64Fraction x) * 2 ^ (f64Exponent x - 1)
          < 2 ^ 53 * 2 ^ (f64Exponent x - 1) := Nat.mul_lt_mul_of_pos_right (by omega) (by positivity)
        _ = 2 ^ (53 + (f64Exponent x - 1)) := by rw [Nat.pow_add]
        _ ≤ unitsOverflow := Nat.pow_le_pow_right (by omega) (by omega)

end Sys2Proof.Machine
end

