-- ==== Sys2Proof/Laws/State.lean ====
section
/-! SUPPORT. The field lemmas of the state's updates. -/

namespace Sys2Proof.Machine

@[simp] theorem respond_cfg (s : State) (r : Response) : (s.respond r).cfg = s.cfg := rfl
@[simp] theorem respond_requests (s : State) (r : Response) : (s.respond r).requests = s.requests := rfl
@[simp] theorem respond_resp (s : State) (r : Response) : (s.respond r).resp = some r := rfl

@[simp] theorem present_cfg (s : State) (r : Request) : (present s r).cfg = s.cfg := rfl
@[simp] theorem present_requests (s : State) (r : Request) : (present s r).requests = r :: s.requests := rfl
@[simp] theorem present_resp (s : State) (r : Request) : (present s r).resp = s.resp := rfl

@[simp] theorem reset_cfg : State.reset.cfg = Config.default := rfl
@[simp] theorem reset_requests : State.reset.requests = [] := rfl
@[simp] theorem reset_resp : State.reset.resp = none := rfl

@[simp] theorem withBounds_none (p : Ports) : p.withBounds none = p := rfl
@[simp] theorem withBounds_op (p : Ports) (b : Option Bounds) : (p.withBounds b).op = p.op := by cases b <;> rfl
@[simp] theorem withBounds_target (p : Ports) (b : Option Bounds) : (p.withBounds b).target = p.target := by
  cases b <;> rfl
@[simp] theorem withBounds_master (p : Ports) (b : Option Bounds) : (p.withBounds b).master = p.master := by
  cases b <;> rfl
@[simp] theorem withBounds_index (p : Ports) (b : Option Bounds) : (p.withBounds b).index = p.index := by
  cases b <;> rfl
@[simp] theorem withBounds_fmt (p : Ports) (b : Option Bounds) : (p.withBounds b).fmt = p.fmt := by cases b <;> rfl
@[simp] theorem withBounds_val32 (p : Ports) (b : Option Bounds) : (p.withBounds b).val32 = p.val32 := by
  cases b <;> rfl

/-- Putting bounds on ports that have none, and reading them back, gives the bounds (R115). -/
theorem boundsOf_withBounds (p : Ports) (b : Option Bounds) (h : p.bounded = 0#1) :
    boundsOf (p.withBounds b).bounded (p.withBounds b).min (p.withBounds b).max = b := by
  cases b with
  | none => simp [Ports.withBounds, boundsOf, h]
  | some b => simp [Ports.withBounds, boundsOf]

end Sys2Proof.Machine
end

