-- ==== Sys2Proof/Machine/HostSystem.lean ====
section
/-! DEFINITION. The pseudo-operation of spec/45_facade_pseudo_ops.md R170 from call to return: build, submit, wait,
accept. Host software beside the machine (spec/00_scope.md R6); no step of `Sys2Proof.core` runs it (log 19). -/

namespace Sys2Proof.Machine

/-- A pseudo-operation whose caller waits for `submit` to return. A caller's number names one call. -/
structure Call where
  caller : Nat
  op : PseudoOp
  deriving DecidableEq, Repr

/-- The host: its bus and the calls that wait on it. The facade itself keeps nothing (R170: "stateless"). -/
structure HostSystem where
  bus : Bus
  calls : List Call
  deriving DecidableEq, Repr

/-- What happens to the host. -/
inductive HostEvent where
  /-- A pseudo-operation is called, with the caller's timeout if it gives one and whether the transport will accept the
  frame (R170, R202, R212). -/
  | call (caller : Nat) (op : PseudoOp) (timeoutMs : Option Nat) (sendAccepted : Bool)
  | bus (e : BusEvent)
  deriving DecidableEq, Repr

/-- What a caller or an observer of the bus sees. -/
inductive HostNotice where
  /-- The pseudo-operation returns to its caller (R170). -/
  | returned (caller : Nat) (outcome : Except FacadeError Result)
  | bus (n : Notice)
  deriving DecidableEq, Repr

/-- The caller whose `submit` a notice ends. -/
def endsFor : Notice → Option Nat
  | .settled caller _ => some caller
  | .failed caller _ => some caller
  | .startRefused => none
  | .sent _ _ => none
  | .surfaced _ => none
  | .dropped => none
  | .discarded => none

/-- A notice of the bus as the facade passes it on (R170): a settled variant goes through the check of its kind, and a
failure of `submit` is returned; everything else is the bus's own. -/
def passOn (h : HostParams) (calls : List Call) (n : Notice) : HostNotice :=
  match n with
  | .settled caller reply =>
      match calls.find? fun k => k.caller == caller with
      | some k => .returned caller (acceptReply h k.op reply)
      | none => .bus n
  | .failed caller e =>
      match calls.find? fun k => k.caller == caller with
      | some _ => .returned caller (.error (.submit e))
      | none => .bus n
  | .startRefused => .bus n
  | .sent _ _ => .bus n
  | .surfaced _ => .bus n
  | .dropped => .bus n
  | .discarded => .bus n

/-- One event of the bus, the notices passed on and the calls that have returned taken off. -/
def runBus (h : HostParams) (c : Cfg) (y : HostSystem) (e : BusEvent) : HostSystem × List HostNotice :=
  let (b, notices) := busStep c y.bus e
  (⟨b, y.calls.filter fun k => !(notices.any fun n => endsFor n == some k.caller)⟩, notices.map (passOn h y.calls))

/-- `pseudo_op` (R170): a status other than `OK` is returned at once and nothing is submitted; otherwise the built frame
is submitted and the call waits, and what `submit` gives comes back through `runBus`, at once or at a later event. -/
def pseudoOp (h : HostParams) (c : Cfg) (y : HostSystem) (caller : Nat) (op : PseudoOp) (timeoutMs : Option Nat)
    (sendAccepted : Bool) : HostSystem × List HostNotice :=
  match expand h c op with
  | .error e => (y, [.returned caller (.error e)])
  | .ok frame =>
      runBus h c { y with calls := y.calls ++ [⟨caller, op⟩] } (.submit ⟨caller, frame, timeoutMs, sendAccepted⟩)

/-- One event of the host. -/
def hostStep (h : HostParams) (c : Cfg) (y : HostSystem) : HostEvent → HostSystem × List HostNotice
  | .call caller op timeoutMs sendAccepted => pseudoOp h c y caller op timeoutMs sendAccepted
  | .bus e => runBus h c y e

end Sys2Proof.Machine
end

