-- ==== Sys2Proof/Laws/Ops.lean ====
section
/-! SUPPORT. What each shared operation can do, said once. -/

namespace Sys2Proof.Machine

/-- Completing a transaction answers a next state, which differs in the response only. -/
@[simp] theorem complete_next (r : Result) (s : State) : complete r s = .next (s.respond (.ok r)) := rfl

/-- Raising a status answers a next state, which differs in the response only (R190). -/
@[simp] theorem raise_next (e : Raise) (s : State) : raise e s = .next (s.respond (.raised e)) := rfl

@[simp] theorem settle_ok (r : Result) (s : State) : settle (.ok r) s = .next (s.respond (.ok r)) := rfl
@[simp] theorem settle_error (e : Raise) (s : State) : settle (.error e) s = .next (s.respond (.raised e)) := rfl

/-- Whichever way an operation ends, it answers a next state with a response and nothing else changed. -/
theorem settle_next (a : Except Raise Result) (s : State) : ∃ r, settle a s = .next (s.respond r) := by
  cases a with
  | ok r => exact ⟨_, rfl⟩
  | error e => exact ⟨_, rfl⟩

/-- What a fetch finds: nothing, an instruction with the request taken off the list, or a request that is none. -/
theorem fetch_cases (s : State) :
    (s.requests = [] ∧ fetch s = .idle) ∨
    (∃ r rest i, s.requests = r :: rest ∧ decode s.cfg r = .ok i ∧ fetch s = .instr i { s with requests := rest }) ∨
    (∃ r rest e, s.requests = r :: rest ∧ decode s.cfg r = .error e ∧ fetch s = .undefined e) := by
  rcases hq : s.requests with _ | ⟨r, rest⟩
  · exact .inl ⟨rfl, by simp [fetch, hq]⟩
  · rcases hd : decode s.cfg r with e | i
    · exact .inr (.inr ⟨r, rest, e, rfl, hd, by simp [fetch, hq, hd]⟩)
    · exact .inr (.inl ⟨r, rest, i, rfl, hd, by simp [fetch, hq, hd]⟩)

/-- Only a frame of the request layout can be no instruction. -/
theorem decode_error (c : Cfg) (r : Request) (e : DecodeError) (h : decode c r = .error e) :
    ∃ id B, r = .outbound id B ∧ decodeOutbound c id B = .error e := by
  cases r with
  | op p => simp [decode] at h
  | inbound id dlc B => simp [decode] at h
  | outbound id B => exact ⟨id, B, rfl, h⟩

/-- The error a frame of the request layout gives names its identifier. -/
theorem decodeOutbound_error (c : Cfg) (id : Ident) (B : Buffer) (e : DecodeError)
    (h : decodeOutbound c id B = .error e) : e = .noReqRow id := by
  unfold decodeOutbound at h
  repeat' split at h
  all_goals first | exact (Except.error.inj h).symm | cases h

/-- PTLOOK's lookup answers a row of the table with the index asked for, or there is none (R119). -/
theorem lookup_cases (table : List Descriptor) (index : BitVec 16) :
    (∃ d ∈ table, d.index = index ∧ lookup table index = some d) ∨
    ((∀ d ∈ table, d.index ≠ index) ∧ lookup table index = none) := by
  induction table with
  | nil => exact .inr ⟨by simp, rfl⟩
  | cons d ds ih =>
    by_cases h : d.index = index
    · exact .inl ⟨d, by simp, h, by simp [lookup, h]⟩
    · rcases ih with ⟨e, he, hi, hl⟩ | ⟨hn, hl⟩
      · exact .inl ⟨e, by simp [he], hi, by simp [lookup, h, hl]⟩
      · refine .inr ⟨?_, by simp [lookup, h, hl]⟩
        intro e he
        rcases List.mem_cons.mp he with rfl | he
        · exact h
        · exact hn e he

/-- QENC refuses bad bounds or a NaN, and otherwise answers the rounded quotient of the clamped value (R86). -/
theorem qencValue_cases (c : Cfg) (v : Flt) (mn mx : F64) (bits : BitVec 8) :
    ((qvalid c mn mx bits = false ∨ v.isNaN = true) ∧ qencValue c v mn mx bits = .error .invalidOperand) ∨
    (qvalid c mn mx bits = true ∧ v.isNaN = false ∧
      qencValue c v mn mx bits = .ok (BitVec.ofNat 32 (roundTie c.roundTie
        (quotient (clamp v (f64Value mn) (f64Value mx)) (f64Value mn) (f64Value mx) bits)))) := by
  unfold qencValue
  cases hq : qvalid c mn mx bits <;> cases hn : v.isNaN <;> simp

/-- QENCS refuses bad bounds, rejects a value outside, and otherwise answers the rounded quotient (R87). -/
theorem qencsValue_cases (c : Cfg) (v : Flt) (mn mx : F64) :
    (qvalid c mn mx Config.qbits = false ∧ qencsValue c v mn mx = .error .invalidOperand) ∨
    (qvalid c mn mx Config.qbits = true ∧ ¬((f64Value mn).le v = true ∧ v.le (f64Value mx) = true) ∧
      qencsValue c v mn mx = .error .rangeError) ∨
    (qvalid c mn mx Config.qbits = true ∧ (f64Value mn).le v = true ∧ v.le (f64Value mx) = true ∧
      qencsValue c v mn mx =
        .ok (BitVec.ofNat 32 (roundTie c.roundTie (quotient v (f64Value mn) (f64Value mx) Config.qbits)))) := by
  unfold qencsValue
  cases hq : qvalid c mn mx Config.qbits <;> cases hl : (f64Value mn).le v <;> cases hr : v.le (f64Value mx) <;> simp

/-- QDEC refuses bad bounds and otherwise answers (R88). -/
theorem qdecValue_cases (c : Cfg) (raw : BitVec 32) (mn mx : F64) (bits : BitVec 8) :
    (qvalid c mn mx bits = false ∧ qdecValue c raw mn mx bits = .error .invalidOperand) ∨
    (qvalid c mn mx bits = true ∧
      qdecValue c raw mn mx bits = .ok (f64Pattern (dequantised raw (f64Value mn) (f64Value mx) bits))) := by
  unfold qdecValue
  cases hq : qvalid c mn mx bits <;> simp

/-- A parameter write without bounds is refused exactly where the value does not fit its format (R117, R120). -/
theorem pvalidate_unbounded (c : Cfg) (fmt : Fmt) (v : BitVec 32) :
    pvalidate c fmt none v = if valueFits fmt v then .ok () else .error .rangeError := by
  unfold pvalidate
  cases valueFits fmt v <;> simp

/-- A parameter write with bounds: the bounds first, then the fit, then the value against the bounds (R120, R191). -/
theorem pvalidate_bounded (c : Cfg) (fmt : Fmt) (b : Bounds) (v : BitVec 32) :
    (qvalid c b.min b.max Config.qbits = false ∧ pvalidate c fmt (some b) v = .error .invalidOperand) ∨
    (qvalid c b.min b.max Config.qbits = true ∧
      ¬(valueFits fmt v = true ∧ (f64Value b.min).le (valueNum fmt v) = true ∧
        (valueNum fmt v).le (f64Value b.max) = true) ∧
      pvalidate c fmt (some b) v = .error .rangeError) ∨
    (qvalid c b.min b.max Config.qbits = true ∧ valueFits fmt v = true ∧
      (f64Value b.min).le (valueNum fmt v) = true ∧ (valueNum fmt v).le (f64Value b.max) = true ∧
      pvalidate c fmt (some b) v = .ok ()) := by
  unfold pvalidate
  cases hq : qvalid c b.min b.max Config.qbits with
  | false => simp [hq]
  | true =>
    cases hf : valueFits fmt v with
    | false => simp [hq]
    | true =>
      rcases qencsValue_cases c (valueNum fmt v) b.min b.max with ⟨h, _⟩ | ⟨_, h, he⟩ | ⟨_, hl, hr, he⟩
      · simp [hq] at h
      · refine .inr (.inl ⟨rfl, fun ⟨_, a⟩ => h a, ?_⟩)
        simp [hq, he, bind, Except.bind]
      · refine .inr (.inr ⟨rfl, rfl, hl, hr, ?_⟩)
        simp [hq, he, bind, Except.bind, pure, Except.pure]

/-- The parser raises `ProtocolError` for a length above 8, and otherwise is the arm the wire opcode selects (R150,
R151). -/
theorem parseFrame_cases (c : Cfg) (id : Ident) (dlc : BitVec 4) (B : Buffer) :
    (8 < dlc.toNat ∧ parseFrame c id dlc B = .error .protocolError) ∨
    (dlc.toNat ≤ 8 ∧
      ((idOpcode id = 2#5 ∧ parseFrame c id dlc B = armMotorFeedback c id dlc B) ∨
       (idOpcode id = 17#5 ∧ parseFrame c id dlc B = armParameterFeedback c dlc B) ∨
       (idOpcode id = 21#5 ∧ parseFrame c id dlc B = armFault id dlc B) ∨
       (hasOwnArm (idOpcode id) = false ∧ parseFrame c id dlc B = armUnknown id))) := by
  unfold parseFrame lengthChecked
  by_cases h : 8 < dlc.toNat
  · exact .inl ⟨h, by simp [h]⟩
  · refine .inr ⟨by omega, ?_⟩
    simp only [h, if_false]
    by_cases h2 : idOpcode id = 2#5
    · exact .inl ⟨h2, by simp [h2]⟩
    by_cases h17 : idOpcode id = 17#5
    · exact .inr (.inl ⟨h17, by simp [h17]⟩)
    by_cases h21 : idOpcode id = 21#5
    · exact .inr (.inr (.inl ⟨h21, by simp [h21]⟩))
    · exact .inr (.inr (.inr ⟨by simp [hasOwnArm, h2, h17, h21], by simp [h2, h17, h21]⟩))

/-- The permit's next holder is the first caller at the gate whose frame the transport accepts; the callers before it
have failed and the ones after it still wait (R201, R207). -/
theorem grantPermit_cases (now : Nat) (gate : List Submission) :
    (∃ failed s rest, gate = failed ++ s :: rest ∧ (∀ x ∈ failed, x.sendAccepted = false) ∧ s.sendAccepted = true ∧
      grantPermit now gate =
        (some (s.record now), rest,
          (failed.map fun x => Notice.failed x.caller .transport) ++ [.sent s.caller s.frame])) ∨
    ((∀ x ∈ gate, x.sendAccepted = false) ∧
      grantPermit now gate = (none, [], gate.map fun x => Notice.failed x.caller .transport)) := by
  induction gate with
  | nil => exact .inr ⟨by simp, rfl⟩
  | cons s rest ih =>
    by_cases h : s.sendAccepted = true
    · exact .inl ⟨[], s, rest, rfl, by simp, h, by simp [grantPermit, h]⟩
    · have h' : s.sendAccepted = false := by simpa using h
      rcases ih with ⟨f, x, r, hg, hf, hx, ha⟩ | ⟨hf, ha⟩
      · refine .inl ⟨s :: f, x, r, by simp [hg], ?_, hx, by simp [grantPermit, h', ha]⟩
        intro y hy
        rcases List.mem_cons.mp hy with rfl | hy
        · exact h'
        · exact hf y hy
      · refine .inr ⟨?_, by simp [grantPermit, h', ha]⟩
        intro y hy
        rcases List.mem_cons.mp hy with rfl | hy
        · exact h'
        · exact hf y hy

/-- Releasing the permit gives the note first, keeps the bus running as it was and its clock, and passes the permit on
(R207). -/
theorem releasePermit_cases (b : Bus) (note : Notice) :
    (∃ failed s rest, b.gate = failed ++ s :: rest ∧ (∀ x ∈ failed, x.sendAccepted = false) ∧ s.sendAccepted = true ∧
      releasePermit b note =
        (⟨b.running, b.clock, some (s.record b.clock), rest⟩,
          note :: (failed.map fun x => Notice.failed x.caller .transport) ++ [.sent s.caller s.frame])) ∨
    ((∀ x ∈ b.gate, x.sendAccepted = false) ∧
      releasePermit b note =
        (⟨b.running, b.clock, none, []⟩, note :: b.gate.map fun x => Notice.failed x.caller .transport)) := by
  rcases grantPermit_cases b.clock b.gate with ⟨f, s, r, hg, hf, hs, h⟩ | ⟨hf, h⟩
  · exact .inl ⟨f, s, r, hg, hf, hs, by simp [releasePermit, h]⟩
  · exact .inr ⟨hf, by simp [releasePermit, h]⟩

/-- A pseudo-operation returns its error at once and changes nothing, or submits its frame and waits (R170). -/
theorem pseudoOp_cases (h : HostParams) (c : Cfg) (y : HostSystem) (caller : Nat) (op : PseudoOp)
    (timeoutMs : Option Nat) (sendAccepted : Bool) :
    (∃ e, expand h c op = .error e ∧
      pseudoOp h c y caller op timeoutMs sendAccepted = (y, [.returned caller (.error e)])) ∨
    (∃ frame, expand h c op = .ok frame ∧
      pseudoOp h c y caller op timeoutMs sendAccepted =
        runBus h c ⟨y.bus, y.calls ++ [⟨caller, op⟩]⟩ (.submit ⟨caller, frame, timeoutMs, sendAccepted⟩)) := by
  rcases he : expand h c op with e | frame
  · exact .inl ⟨e, rfl, by simp [pseudoOp, he]⟩
  · exact .inr ⟨frame, rfl, by simp [pseudoOp, he]⟩

end Sys2Proof.Machine
end

