-- ==== Sys2Proof/Laws/PerInstr.lean ====
section
/-! SUPPORT. One lemma per constructor of `Instr`: the request an instruction is encoded as fits, first among the rows
of its format, the row of spec/opcode_table.json that the instruction stands for (spec/30_encoding.md R64). -/

namespace Sys2Proof.Laws.RowMatch

open Sys2Proof.Machine

/-- The encoded request's first row is the instruction's own. -/
def Statement (i : Instr) : Prop :=
  wellFormed i = true → ∀ c : Cfg, (firstRow (encode c i)).map (·.mnemonic) = some (mnemonicOf i)

/-- The row of an operation port is looked up by the `op` code alone (R62, R64). -/
theorem firstRow_op (p : Ports) (k : BitVec 4) (m : String) (h : p.op = k)
    (hm : (opRows.find? fun row => rowFits row (k.zeroExtend 29)).map (·.mnemonic) = some m) :
    (firstRow (.op p)).map (·.mnemonic) = some m := by
  subst h
  exact hm

theorem qenc (value mn mx : F64) (bits : BitVec 8) : Statement (.qenc value mn mx bits) :=
  fun _ _ => firstRow_op _ 0#4 "QENC" rfl (by decide)
theorem qencs (value mn mx : F64) : Statement (.qencs value mn mx) :=
  fun _ _ => firstRow_op _ 1#4 "QENCS" rfl (by decide)
theorem qdec (raw : BitVec 32) (mn mx : F64) (bits : BitVec 8) : Statement (.qdec raw mn mx bits) :=
  fun _ _ => firstRow_op _ 2#4 "QDEC" rfl (by decide)
theorem idpack (o : BitVec 5) (d : BitVec 16) (t : Byte) : Statement (.idpack o d t) :=
  fun _ _ => firstRow_op _ 3#4 "IDPACK" rfl (by decide)
theorem idunpkReq (id : Ident) : Statement (.idunpkReq id) :=
  fun _ _ => firstRow_op _ 4#4 "IDUNPK_REQ" rfl (by decide)
theorem idunpkFb (id : Ident) : Statement (.idunpkFb id) :=
  fun _ _ => firstRow_op _ 5#4 "IDUNPK_FB" rfl (by decide)
theorem ptlook (index : BitVec 16) : Statement (.ptlook index) :=
  fun _ _ => firstRow_op _ 6#4 "PTLOOK" rfl (by decide)
theorem fbEnable (t m : Byte) : Statement (.fbEnable t m) :=
  fun _ _ => firstRow_op _ 7#4 "FB_ENABLE" rfl (by decide)
theorem fbDisable (t m : Byte) : Statement (.fbDisable t m) :=
  fun _ _ => firstRow_op _ 8#4 "FB_DISABLE" rfl (by decide)
theorem fbSetzero (t m : Byte) : Statement (.fbSetzero t m) :=
  fun _ _ => firstRow_op _ 9#4 "FB_SETZERO" rfl (by decide)
theorem fbWrparam (t m : Byte) (index : BitVec 16) (fmt : Fmt) (b : Option Bounds) (v : BitVec 32) : Statement (.fbWrparam t m index fmt b v) :=
  fun _ _ => firstRow_op _ 10#4 "FB_WRPARAM" (withBounds_op _ _) (by decide)
theorem fbRdparam (t m : Byte) (index : BitVec 16) : Statement (.fbRdparam t m index) :=
  fun _ _ => firstRow_op _ 11#4 "FB_RDPARAM" rfl (by decide)
theorem fbMotion (t : Byte) (a b c d e : F64) : Statement (.fbMotion t a b c d e) :=
  fun _ _ => firstRow_op _ 12#4 "FB_MOTION" rfl (by decide)
theorem fpParse (id : Ident) (dlc : BitVec 4) (B : Buffer) : Statement (.fpParse id dlc B) :=
  fun _ _ => firstRow_op _ 13#4 "FP_PARSE" rfl (by decide)
theorem reservedOp14 : Statement .reservedOp14 :=
  fun _ _ => firstRow_op _ 14#4 "RESERVED_OP_14" rfl (by decide)
theorem reservedOp15 : Statement .reservedOp15 :=
  fun _ _ => firstRow_op _ 15#4 "RESERVED_OP_15" rfl (by decide)

/-- The `FB` rows tried in order, by the wire opcode. -/
theorem firstRow_inbound (id : Ident) (dlc : BitVec 4) (B : Buffer) :
    (firstRow (.inbound id dlc B)).map (·.mnemonic) =
      some (if idOpcode id = 2#5 then "FP_PARSE.MotorFeedback" else if idOpcode id = 17#5 then
        "FP_PARSE.ParameterFeedback" else if idOpcode id = 21#5 then "FP_PARSE.Fault" else "FP_PARSE.Unknown") := by
  have h2 := opcodeMask_fits id "FP_PARSE.MotorFeedback" 2#5
  have h17 := opcodeMask_fits id "FP_PARSE.ParameterFeedback" 17#5
  have h21 := opcodeMask_fits id "FP_PARSE.Fault" 21#5
  have h0 : rowFits ⟨"FP_PARSE.Unknown", 0x00000000#29, 0x00000000#29⟩ id = true := by simp [rowFits]
  simp only [show packId 2#5 0 0 = 0x02000000#29 from rfl, show packId 17#5 0 0 = 0x11000000#29 from rfl,
    show packId 21#5 0 0 = 0x15000000#29 from rfl] at h2 h17 h21
  simp only [firstRow, rowsFor, requestWord, fbRows, List.find?_cons, h2, h17, h21, h0]
  by_cases e2 : idOpcode id = 2#5
  · simp [e2]
  by_cases e17 : idOpcode id = 17#5
  · simp [e17]
  by_cases e21 : idOpcode id = 21#5
  · simp [e21]
  · rw [beq_false_of_ne e2, beq_false_of_ne e17, beq_false_of_ne e21]
    simp [e2, e17, e21]

theorem fpMotorFeedback (id : Ident) (dlc : BitVec 4) (B : Buffer) : Statement (.fpMotorFeedback id dlc B) := by
  intro h c
  have h : idOpcode id = 2#5 := by simpa [wellFormed] using h
  simp [encode, firstRow_inbound, h, mnemonicOf]

theorem fpParameterFeedback (id : Ident) (dlc : BitVec 4) (B : Buffer) :
    Statement (.fpParameterFeedback id dlc B) := by
  intro h c
  have h : idOpcode id = 17#5 := by simpa [wellFormed] using h
  simp [encode, firstRow_inbound, h, mnemonicOf]

theorem fpFault (id : Ident) (dlc : BitVec 4) (B : Buffer) : Statement (.fpFault id dlc B) := by
  intro h c
  have h : idOpcode id = 21#5 := by simpa [wellFormed] using h
  simp [encode, firstRow_inbound, h, mnemonicOf]

theorem fpUnknown (id : Ident) (dlc : BitVec 4) (B : Buffer) : Statement (.fpUnknown id dlc B) := by
  intro h c
  have h : (¬idOpcode id = 2#5 ∧ ¬idOpcode id = 17#5) ∧ ¬idOpcode id = 21#5 := by
    simpa [wellFormed, hasOwnArm] using h
  simp [encode, firstRow_inbound, h, mnemonicOf]

/-- The `REQ` rows tried in order, by the wire opcode and identifier bits 23 to 16. -/
theorem firstRow_outbound (id : Ident) (B : Buffer) :
    firstRow (.outbound id B) = reqRows.find? fun row => rowFits row id := rfl

/-- The nine `REQ` rows as conditions on the fields of an identifier. -/
theorem reqRows_fit (o : BitVec 5) (d : BitVec 16) (t : Byte) (B : Buffer) :
    (firstRow (.outbound (packId o d t) B)).map (·.mnemonic) =
      ([("WIRE_MotorControl", o == 1#5),
        ("WIRE_MotorEnable", o == 3#5 && idHigh (packId o d t) == 0#8),
        ("WIRE_MotorStop", o == 4#5 && idHigh (packId o d t) == 0#8),
        ("WIRE_SetMechanicalZero", o == 6#5 && idHigh (packId o d t) == 0#8),
        ("WIRE_SingleParamRead", o == 17#5 && idHigh (packId o d t) == 0#8),
        ("WIRE_SingleParamWrite", o == 18#5 && idHigh (packId o d t) == 0#8),
        ("WIRE_GetDeviceId", o == 0#5),
        ("WIRE_SetMotorCanId", o == 7#5),
        ("WIRE_ParamTableWrite", o == 8#5)].find? (·.2)).map (·.1) := by
  have f (m : String) (p : Ident) (k : BitVec 5) (h : p = packId k 0 0) :
      rowFits ⟨m, 0x1F000000#29, p⟩ (packId o d t) = (o == k) := by
    rw [h, opcodeMask_fits, idOpcode_packId]
  have g (m : String) (p : Ident) (k : BitVec 5) (h : p = packId k 0 0) :
      rowFits ⟨m, 0x1FFF0000#29, p⟩ (packId o d t) = (o == k && idHigh (packId o d t) == 0#8) := by
    rw [h, builtMask_fits, idOpcode_packId]
  rw [firstRow_outbound]
  simp only [reqRows, List.find?_cons, f _ 0x01000000#29 1#5 rfl, g _ 0x03000000#29 3#5 rfl,
    g _ 0x04000000#29 4#5 rfl, g _ 0x06000000#29 6#5 rfl, g _ 0x11000000#29 17#5 rfl, g _ 0x12000000#29 18#5 rfl,
    f _ 0x00000000#29 0#5 rfl, f _ 0x07000000#29 7#5 rfl, f _ 0x08000000#29 8#5 rfl]
  repeat' split
  all_goals rfl

theorem wireMotorControl (d : BitVec 16) (t : Byte) (aq vq pq dq : BitVec 16) :
    Statement (.wireMotorControl d t aq vq pq dq) := by
  intro _ c
  simp only [encode, reqRows_fit]
  rfl

theorem wireMotorEnable (m t : Byte) : Statement (.wireMotorEnable m t) := by
  intro _ c
  simp only [encode, reqRows_fit, idHigh_packId_master]
  rfl

theorem wireMotorStop (m t : Byte) : Statement (.wireMotorStop m t) := by
  intro _ c
  simp only [encode, reqRows_fit, idHigh_packId_master]
  rfl

theorem wireSetMechanicalZero (m t : Byte) : Statement (.wireSetMechanicalZero m t) := by
  intro _ c
  simp only [encode, reqRows_fit, idHigh_packId_master]
  rfl

theorem wireSingleParamRead (m t : Byte) (index : BitVec 16) : Statement (.wireSingleParamRead m t index) := by
  intro _ c
  simp only [encode, reqRows_fit, idHigh_packId_master]
  rfl

theorem wireSingleParamWrite (m t : Byte) (index : BitVec 16) (v : Quad) :
    Statement (.wireSingleParamWrite m t index v) := by
  intro _ c
  simp only [encode, reqRows_fit, idHigh_packId_master]
  rfl

theorem wireGetDeviceId (d : BitVec 16) (t : Byte) : Statement (.wireGetDeviceId d t) := by
  intro _ c
  simp only [encode, reqRows_fit]
  rfl

theorem wireSetMotorCanId (d : BitVec 16) (t : Byte) : Statement (.wireSetMotorCanId d t) := by
  intro _ c
  simp only [encode, reqRows_fit]
  rfl

theorem wireParamTableWrite (d : BitVec 16) (t : Byte) : Statement (.wireParamTableWrite d t) := by
  intro _ c
  simp only [encode, reqRows_fit]
  rfl

end Sys2Proof.Laws.RowMatch
end

