-- ==== Sys2Proof/Tests/Slice0.lean ====
section
/-! SUPPORT. Small tests. The expected results are the vectors of spec/95_test_vectors.md and the examples of the
operation rules; the words of the decode tests are written out from spec/30_encoding.md. -/

namespace Sys2Proof.Tests

/- One theorem at a time: each proof by kernel evaluation waits for the declarations before it, and a thread apiece would
take more memory than the build allows. -/
set_option Elab.async false

open Sys2Proof.Machine

/-- The response of an instruction run on its own under a configuration. -/
def run (c : Cfg) (i : Instr) : Option Response := transact c i

/-- The default configuration. -/
abbrev dc : Cfg := Config.default

/-- The default configuration with ties to even. -/
def evenCfg : Cfg := { Config.default with roundTie := .halfToEven }

def f0 : F64 := 0x0000000000000000#64
def f1 : F64 := 0x3FF0000000000000#64
def f3 : F64 := 0x4008000000000000#64
def f5 : F64 := 0x4014000000000000#64
def f12 : F64 := 0x4028000000000000#64
def m8 : F64 := 0xC020000000000000#64
def m12 : F64 := 0xC028000000000000#64
def f30 : F64 := 0x403E000000000000#64
def f31 : F64 := 0x403F000000000000#64
def f112 : F64 := 0x405C000000000000#64
def plusInf : F64 := 0x7FF0000000000000#64
def minusInf : F64 := 0xFFF0000000000000#64
def aNaN : F64 := 0x7FF8000000000000#64

/-! ## WellFormed refuses ill-formed terms -/

theorem test_wf_motorFeedback_opcode : wellFormed (.fpMotorFeedback 0x11007F00#29 8#4 zeroBuffer) = false := by decide
theorem test_wf_parameterFeedback_opcode :
    wellFormed (.fpParameterFeedback 0x02007F00#29 8#4 zeroBuffer) = false := by decide
theorem test_wf_fault_opcode : wellFormed (.fpFault 0x14007F00#29 8#4 zeroBuffer) = false := by decide
theorem test_wf_unknown_opcode_2 : wellFormed (.fpUnknown 0x02007F00#29 8#4 zeroBuffer) = false := by decide
theorem test_wf_unknown_opcode_17 : wellFormed (.fpUnknown 0x11007F00#29 8#4 zeroBuffer) = false := by decide
theorem test_wf_unknown_opcode_21 : wellFormed (.fpUnknown 0x15007F00#29 8#4 zeroBuffer) = false := by decide

/-! ## Decoding of words written out from the encodings -/

theorem test_decode_qenc :
    decode dc (.op { zeroPorts with op := 0#4, value := f1, min := m12, max := f12, bits := 16#8 })
      = .ok (.qenc f1 m12 f12 16#8) := by decide
theorem test_decode_qencs :
    decode dc (.op { zeroPorts with op := 1#4, value := f31, min := f0, max := f30 }) = .ok (.qencs f31 f0 f30) := by
  decide
theorem test_decode_qdec :
    decode dc (.op { zeroPorts with op := 2#4, raw := 0x8666#32, min := m12, max := f12, bits := 16#8 })
      = .ok (.qdec 0x8666#32 m12 f12 16#8) := by decide
theorem test_decode_idpack :
    decode dc (.op { zeroPorts with op := 3#4, opcode := 6#5, data16 := 0x00FD#16, target := 127#8 })
      = .ok (.idpack 6#5 0x00FD#16 127#8) := by decide
theorem test_decode_idunpkReq :
    decode dc (.op { zeroPorts with op := 4#4, id := 0x0600007F#29 }) = .ok (.idunpkReq 0x0600007F#29) := by decide
theorem test_decode_idunpkFb :
    decode dc (.op { zeroPorts with op := 5#4, id := 0x02917F00#29 }) = .ok (.idunpkFb 0x02917F00#29) := by decide
theorem test_decode_ptlook :
    decode dc (.op { zeroPorts with op := 6#4, index := 0x7017#16 }) = .ok (.ptlook 0x7017#16) := by decide
theorem test_decode_fbEnable :
    decode dc (.op { zeroPorts with op := 7#4, target := 127#8, master := 253#8 }) = .ok (.fbEnable 127#8 253#8) := by
  decide
theorem test_decode_fbDisable :
    decode dc (.op { zeroPorts with op := 8#4, target := 127#8, master := 253#8 })
      = .ok (.fbDisable 127#8 253#8) := by decide
theorem test_decode_fbSetzero :
    decode dc (.op { zeroPorts with op := 9#4, target := 127#8, master := 253#8 })
      = .ok (.fbSetzero 127#8 253#8) := by decide
theorem test_decode_fbWrparam_bounded :
    decode dc (.op { zeroPorts with
        op := 10#4, target := 127#8, master := 1#8, index := 0x7005#16, fmt := 0#2, bounded := 1#1, min := f0,
        max := f3, val32 := 4#32 })
      = .ok (.fbWrparam 127#8 1#8 0x7005#16 .u8 (some ⟨f0, f3⟩) 4#32) := by decide
theorem test_decode_fbWrparam_unbounded :
    decode dc (.op { zeroPorts with
        op := 10#4, target := 127#8, index := 0x701D#16, fmt := 1#2, min := f0, max := f3, val32 := 4#32 })
      = .ok (.fbWrparam 127#8 0#8 0x701D#16 .i16 none 4#32) := by decide
theorem test_decode_fbRdparam :
    decode dc (.op { zeroPorts with op := 11#4, target := 127#8, master := 253#8, index := 0x7016#16 })
      = .ok (.fbRdparam 127#8 253#8 0x7016#16) := by decide
theorem test_decode_fbMotion :
    decode dc (.op { zeroPorts with
        op := 12#4, target := 1#8, torque := f0, angle := f1, velocity := f3, kp := f5, kd := f12 })
      = .ok (.fbMotion 1#8 f0 f1 f3 f5 f12) := by decide
theorem test_decode_fpParse :
    decode dc (.op { zeroPorts with op := 13#4, id := 0x15007F00#29, dlc := 3#4, B := ⟨1, 2, 3, 4, 5, 6, 7, 8⟩ })
      = .ok (.fpParse 0x15007F00#29 3#4 ⟨1, 2, 3, 4, 5, 6, 7, 8⟩) := by decide
theorem test_decode_reserved14 : decode dc (.op { zeroPorts with op := 14#4 }) = .ok .reservedOp14 := by decide
theorem test_decode_reserved15 : decode dc (.op { zeroPorts with op := 15#4 }) = .ok .reservedOp15 := by decide

theorem test_decode_fpMotorFeedback :
    decode dc (.inbound 0b00010_10_010001_01111111_00000000#29 8#4 zeroBuffer)
      = .ok (.fpMotorFeedback 0x02917F00#29 8#4 zeroBuffer) := by decide
theorem test_decode_fpParameterFeedback :
    decode dc (.inbound 0b10001_00_000000_01111111_00000000#29 8#4 zeroBuffer)
      = .ok (.fpParameterFeedback 0x11007F00#29 8#4 zeroBuffer) := by decide
theorem test_decode_fpFault :
    decode dc (.inbound 0b10101_00_000000_01111111_00000000#29 2#4 zeroBuffer)
      = .ok (.fpFault 0x15007F00#29 2#4 zeroBuffer) := by decide
theorem test_decode_fpUnknown :
    decode dc (.inbound 0b10010_00_000000_01111111_00000000#29 8#4 zeroBuffer)
      = .ok (.fpUnknown 0x12007F00#29 8#4 zeroBuffer) := by decide

theorem test_decode_wireMotorControl :
    decode dc (.outbound 0b00001_1000000000000000_01111111#29 ⟨0xFF, 0x9F, 0x66, 0x86, 0x5C, 0x0F, 0x33, 0x33⟩)
      = .ok (.wireMotorControl 0x8000#16 127#8 0x9FFF#16 0x8666#16 0x0F5C#16 0x3333#16) := by decide
theorem test_decode_wireMotorEnable :
    decode dc (.outbound 0b00011_00000000_11111101_00000001#29 zeroBuffer) = .ok (.wireMotorEnable 0xFD#8 1#8) := by
  decide
theorem test_decode_wireMotorStop :
    decode dc (.outbound 0b00100_00000000_11111101_00000001#29 zeroBuffer) = .ok (.wireMotorStop 0xFD#8 1#8) := by
  decide
theorem test_decode_wireSetMechanicalZero :
    decode dc (.outbound 0b00110_00000000_11111101_00000001#29 ⟨1, 0, 0, 0, 0, 0, 0, 0⟩)
      = .ok (.wireSetMechanicalZero 0xFD#8 1#8) := by decide
theorem test_decode_wireSingleParamRead :
    decode dc (.outbound 0b10001_00000000_11111101_00000001#29 ⟨0x19, 0x70, 0, 0, 0, 0, 0, 0⟩)
      = .ok (.wireSingleParamRead 0xFD#8 1#8 0x7019#16) := by decide
theorem test_decode_wireSingleParamWrite :
    decode dc (.outbound 0b10010_00000000_00000000_01111111#29 ⟨0x17, 0x70, 0, 0, 0x66, 0x66, 0x46, 0x40⟩)
      = .ok (.wireSingleParamWrite 0#8 127#8 0x7017#16 ⟨0x66, 0x66, 0x46, 0x40⟩) := by decide
theorem test_decode_wireGetDeviceId :
    decode dc (.outbound 0b00000_0000000011111101_00000001#29 zeroBuffer) = .ok (.wireGetDeviceId 0x00FD#16 1#8) := by
  decide
theorem test_decode_wireSetMotorCanId :
    decode dc (.outbound 0b00111_0000000111111101_00000001#29 zeroBuffer)
      = .ok (.wireSetMotorCanId 0x01FD#16 1#8) := by decide
theorem test_decode_wireParamTableWrite :
    decode dc (.outbound 0b01000_0000000011111101_00000001#29 zeroBuffer)
      = .ok (.wireParamTableWrite 0x00FD#16 1#8) := by decide
/-- Opcode 5 is none of the eleven (R58); opcode 3 with a bit above the master id fits no row (R64). -/
theorem test_decode_no_row :
    decode dc (.outbound 0x05000001#29 zeroBuffer) = .error (.noReqRow 0x05000001#29) ∧
    decode dc (.outbound 0x03010001#29 zeroBuffer) = .error (.noReqRow 0x03010001#29) := by decide

/-! ## One step each, from the spec's vectors -/

/-- R86's example. -/
theorem test_qenc_example : run dc (.qenc f1 m12 f12 16#8) = some (.ok (.code 0x8AAA#32)) := by decide +kernel
/-- R84: −8.0 meets a tie, 10923 or 10922 by the tie rule. -/
theorem test_qenc_tie :
    run dc (.qenc m8 m12 f12 16#8) = some (.ok (.code 10923#32)) ∧
    run evenCfg (.qenc m8 m12 f12 16#8) = some (.ok (.code 10922#32)) := by decide +kernel
/-- Q4: the bounds are inside, 31.0 is not. -/
theorem test_qencs_bounds :
    run dc (.qencs f30 f0 f30) = some (.ok (.code 65535#32)) ∧
    run dc (.qencs f31 f0 f30) = some (.raised .rangeError) := by decide +kernel
/-- R191: a NaN with bounds that are no interval is `InvalidOperand`. -/
theorem test_qencs_priority :
    run dc (.qencs aNaN f1 f1) = some (.raised .invalidOperand) ∧
    run dc (.qencs aNaN f0 f30) = some (.raised .rangeError) := by decide +kernel
/-- R88's example. -/
theorem test_qdec_example :
    run dc (.qdec 0x8666#32 Config.vMin Config.vMax 16#8) = some (.ok (.real 0x3FF8007800780080#64)) := by
  decide +kernel
/-- Q3: `[−1, 1]` in two bits, and raw above `N` over `P`. -/
theorem test_qdec_rounding :
    run dc (.qdec 1#32 0xBFF0000000000000#64 f1 2#8) = some (.ok (.real 0xBFD5555555555556#64)) ∧
    run dc (.qdec 70000#32 Config.pMin Config.pMax 16#8) = some (.ok (.real Config.pMax)) := by decide +kernel
/-- R102's example and largest result. -/
theorem test_idpack :
    run dc (.idpack 6#5 0#16 127#8) = some (.ok (.ident 0x0600007F#29)) ∧
    run dc (.idpack 31#5 0xFFFF#16 0xFF#8) = some (.ok (.ident 0x1FFFFFFF#29)) := by decide
/-- I1: a feedback word read with the request layout. -/
theorem test_idunpkReq :
    run dc (.idunpkReq 0x02917F00#29) = some (.ok (.requestFields 2#5 0x917F#16 0#8)) := by decide
/-- R104's example. -/
theorem test_idunpkFb :
    run dc (.idunpkFb 0x02917F00#29) = some (.ok (.feedbackFields 2#5 0b010001#6 2#2 127#8 0#8)) := by decide
/-- T1. -/
theorem test_ptlook :
    run dc (.ptlook 0x7017#16) = some (.ok (.descriptor .f32 (some ⟨f0, f30⟩))) ∧
    run dc (.ptlook 0x1234#16) = some (.raised .notFound) := by decide
/-- T1, the source-evidenced table. -/
theorem test_ptlook_evidenced :
    run { dc with paramTable := Config.evidencedTable } (.ptlook 0x7017#16) = some (.ok (.descriptor .f32 none)) ∧
    run { dc with paramTable := Config.evidencedTable } (.ptlook 0x7005#16) = some (.raised .notFound) := by decide
/-- B1. -/
theorem test_fbEnable : run dc (.fbEnable 1#8 0xFD#8) = some (.ok (.frame 0x0300FD01#29 0#4 zeroBuffer)) := by decide
theorem test_fbDisable : run dc (.fbDisable 1#8 0xFD#8) = some (.ok (.frame 0x0400FD01#29 8#4 zeroBuffer)) := by decide
theorem test_fbSetzero :
    run dc (.fbSetzero 127#8 0#8) = some (.ok (.frame 0x0600007F#29 1#4 ⟨1, 0, 0, 0, 0, 0, 0, 0⟩)) := by decide
/-- R134's example, and 31.0f against the bounds 0 to 30. -/
theorem test_fbWrparam_f32 :
    run dc (.fbWrparam 127#8 0#8 0x7017#16 .f32 (some ⟨f0, f30⟩) 0x40466666#32)
      = some (.ok (.frame 0x1200007F#29 8#4 ⟨0x17, 0x70, 0, 0, 0x66, 0x66, 0x46, 0x40⟩)) ∧
    run dc (.fbWrparam 127#8 0#8 0x7017#16 .f32 (some ⟨f0, f30⟩) 0x41F80000#32) = some (.raised .rangeError) := by
  decide +kernel
/-- B2: −2 and 32768 as `i16`. -/
theorem test_fbWrparam_i16 :
    run dc (.fbWrparam 1#8 0xFD#8 0x701D#16 .i16 none 0xFFFFFFFE#32)
      = some (.ok (.frame 0x1200FD01#29 8#4 ⟨0x1D, 0x70, 0, 0, 0xFE, 0xFF, 0, 0⟩)) ∧
    run dc (.fbWrparam 1#8 0xFD#8 0x701D#16 .i16 none 0x00008000#32) = some (.raised .rangeError) := by decide
/-- R135's example. -/
theorem test_fbRdparam :
    run dc (.fbRdparam 127#8 0#8 0x7016#16) = some (.ok (.frame 0x1100007F#29 8#4 ⟨0x16, 0x70, 0, 0, 0, 0, 0, 0⟩)) := by
  decide
/-- R136's example. -/
theorem test_fbMotion_example :
    run dc (.fbMotion 127#8 f0 0x400921FB54442D18#64 0x3FF8000000000000#64 f30 f1)
      = some (.ok (.frame 0x0180007F#29 8#4 ⟨0xFF, 0x9F, 0x66, 0x86, 0x5C, 0x0F, 0x33, 0x33⟩)) := by decide +kernel
/-- B4: infinities clamp; a NaN is refused. -/
theorem test_fbMotion_edges :
    run dc (.fbMotion 255#8 plusInf minusInf plusInf plusInf minusInf)
      = some (.ok (.frame 0x01FFFFFF#29 8#4 ⟨0, 0, 0xFF, 0xFF, 0xFF, 0xFF, 0, 0⟩)) ∧
    run dc (.fbMotion 1#8 aNaN f0 f0 f0 f0) = some (.raised .invalidOperand) := by decide +kernel
/-- R152's example, through FP_PARSE and through the arm. -/
theorem test_fpMotorFeedback :
    run dc (.fpParse 0x02807F00#29 8#4 ⟨0x80, 0x00, 0x86, 0x66, 0x7F, 0xFF, 0x01, 0x2C⟩)
      = some (.ok (.motorFeedback 2#5 0#6 2#2 127#8 0#8 0x3F29221476590000#64 0x3FF8007800780080#64
          0xBF28001800180000#64 f30)) ∧
    run dc (.fpMotorFeedback 0x02807F00#29 8#4 ⟨0x80, 0x00, 0x86, 0x66, 0x7F, 0xFF, 0x01, 0x2C⟩)
      = run dc (.fpParse 0x02807F00#29 8#4 ⟨0x80, 0x00, 0x86, 0x66, 0x7F, 0xFF, 0x01, 0x2C⟩) := by decide +kernel
/-- R153's example, and R37's swapped index. -/
theorem test_fpParameterFeedback :
    run dc (.fpParameterFeedback 0x11007F00#29 8#4 ⟨0x70, 0x17, 9, 9, 0x66, 0x66, 0x46, 0x40⟩)
      = some (.ok (.parameterFeedback 17#5 0x7017#16 ⟨0x66, 0x66, 0x46, 0x40⟩)) ∧
    run dc (.fpParse 0x11007F00#29 8#4 ⟨0x17, 0x70, 0, 0, 0x66, 0x66, 0x46, 0x40⟩)
      = some (.ok (.parameterFeedback 17#5 0x1770#16 ⟨0x66, 0x66, 0x46, 0x40⟩)) := by decide
/-- R154: the bytes at the length and above are zero whatever was driven. -/
theorem test_fpFault :
    run dc (.fpFault 0x15007F00#29 2#4 ⟨1, 2, 3, 4, 5, 6, 7, 8⟩)
      = some (.ok (.fault 21#5 127#8 ⟨1, 2, 0, 0, 0, 0, 0, 0⟩ 2#4)) ∧
    run dc (.fpFault 0x15007F00#29 9#4 zeroBuffer) = some (.raised .protocolError) := by decide
/-- R150's example, and R151's length check. -/
theorem test_fpUnknown :
    run dc (.fpUnknown 0x0300007F#29 0#4 zeroBuffer) = some (.ok (.unknown 3#5)) ∧
    run dc (.fpParse 0x0500007F#29 9#4 zeroBuffer) = some (.raised .protocolError) := by decide
theorem test_reservedOp14 : run dc .reservedOp14 = some (.raised .badOp) := by decide
theorem test_reservedOp15 : run dc .reservedOp15 = some (.raised .badOp) := by decide
/-- The frames of the `REQ` rows, from the identifiers and payloads of B1 to B4. -/
theorem test_wireMotorControl :
    run dc (.wireMotorControl 0x8000#16 127#8 0x9FFF#16 0x8666#16 0x0F5C#16 0x3333#16)
      = some (.ok (.frame 0x0180007F#29 8#4 ⟨0xFF, 0x9F, 0x66, 0x86, 0x5C, 0x0F, 0x33, 0x33⟩)) := by decide
theorem test_wireMotorEnable :
    run dc (.wireMotorEnable 0xFD#8 1#8) = some (.ok (.frame 0x0300FD01#29 0#4 zeroBuffer)) := by decide
theorem test_wireMotorStop :
    run dc (.wireMotorStop 0xFD#8 1#8) = some (.ok (.frame 0x0400FD01#29 8#4 zeroBuffer)) := by decide
theorem test_wireSetMechanicalZero :
    run dc (.wireSetMechanicalZero 0xFD#8 1#8)
      = some (.ok (.frame 0x0600FD01#29 1#4 ⟨1, 0, 0, 0, 0, 0, 0, 0⟩)) := by decide
theorem test_wireSingleParamRead :
    run dc (.wireSingleParamRead 0xFD#8 1#8 0x7019#16)
      = some (.ok (.frame 0x1100FD01#29 8#4 ⟨0x19, 0x70, 0, 0, 0, 0, 0, 0⟩)) := by decide
theorem test_wireSingleParamWrite :
    run dc (.wireSingleParamWrite 0#8 127#8 0x7016#16 ⟨0xCD, 0xCC, 0x8C, 0x3F⟩)
      = some (.ok (.frame 0x1200007F#29 8#4 ⟨0x16, 0x70, 0, 0, 0xCD, 0xCC, 0x8C, 0x3F⟩)) := by decide
theorem test_wireGetDeviceId : run dc (.wireGetDeviceId 0x00FD#16 1#8) = some (.ok (.ident 0x0000FD01#29)) := by decide
theorem test_wireSetMotorCanId :
    run dc (.wireSetMotorCanId 0x01FD#16 1#8) = some (.ok (.ident 0x0701FD01#29)) := by decide
theorem test_wireParamTableWrite :
    run dc (.wireParamTableWrite 0x00FD#16 1#8) = some (.ok (.ident 0x0800FD01#29)) := by decide

/-! ## The step, the table's words, and the host -/

/-- Two requests run in order, one a step. -/
theorem test_step_takes_head :
    (match step { State.reset with requests := [.op { zeroPorts with op := 6#4, index := 0x1234#16 }, .inbound 0 0 zeroBuffer] } with
      | .next t => decide (t.resp = some (.raised .notFound)) && decide (t.requests = [.inbound 0 0 zeroBuffer])
      | _ => false) = true := by decide
theorem test_word_op : decodeTableWord 8 6 = some (.ptlook 0#16) := by decide
theorem test_word_inbound : decodeTableWord 32 0x02917F00 = some (.fpMotorFeedback 0x02917F00#29 0#4 zeroBuffer) := by
  decide
theorem test_word_outbound : decodeTableWord 32 0x0300FD01 = some (.wireMotorEnable 0xFD#8 1#8) := by decide
theorem test_word_fetched :
    fetch (State.reset.withFetchWord 32 0x0300FD01) = .instr (.wireMotorEnable 0xFD#8 1#8) State.reset := by decide
/-- R171's example through the facade. -/
theorem test_setRunMode :
    expand suggestedHost dc (.setRunMode 127#8 1#8) = .ok ⟨0x1200007F#29, 8#4, ⟨0x05, 0x70, 0, 0, 1, 0, 0, 0⟩⟩ ∧
    expand suggestedHost dc (.setRunMode 127#8 4#8) = .error (.status .rangeError) := by decide +kernel

/-- A bus with one request outstanding and one caller waiting. -/
def busyBus : Bus :=
  ⟨true, 0, some ⟨1, 127#8, 3#5, 0, 2000⟩, [⟨2, ⟨0x0400007F#29, 8#4, zeroBuffer⟩, some 500, true⟩]⟩

/-- `to_val32` (R174): the examples of R134 and R178 from their binary64 values, and −2 as an integer (B2). -/
theorem test_toVal32 :
    toVal32 .f32 (.double 0x4008CCCCCCCCCCCD#64) = 0x40466666#32 ∧
    toVal32 .f32 (.double 0x3FF199999999999A#64) = 0x3F8CCCCD#32 ∧
    toVal32 .i16 (.integer (-2)) = 0xFFFFFFFE#32 := by decide +kernel
/-- R174: a binary64 half-way between two binary32 values goes to the even one, up or down. -/
theorem test_toVal32_tie :
    toVal32 .f32 (.double 0x3FF0000010000000#64) = 0x3F800000#32 ∧
    toVal32 .f32 (.double 0x3FF0000030000000#64) = 0x3F800002#32 := by decide +kernel

/-- A started host with nothing outstanding. -/
def readyHost : HostSystem := ⟨{ idleBus with running := true }, []⟩

/-- R172's example from call to return: the frame is sent, and the reply comes back to the caller. -/
theorem test_pseudoOp_enable :
    (hostStep suggestedHost dc readyHost (.call 1 (.enable 127#8) none true)).2
      = [.bus (.sent 1 ⟨0x0300007F#29, 0#4, zeroBuffer⟩)] ∧
    (hostStep suggestedHost dc (hostStep suggestedHost dc readyHost (.call 1 (.enable 127#8) none true)).1
        (.bus (.received 0x02807F00#29 8#4 ⟨0x80, 0, 0x86, 0x66, 0x7F, 0xFF, 0x01, 0x2C⟩)))
      = (readyHost, [.returned 1 (.ok (.motorFeedback 2#5 0#6 2#2 127#8 0#8 0x3F29221476590000#64
          0x3FF8007800780080#64 0xBF28001800180000#64 f30))]) := by decide +kernel
/-- R170, R179: a parameter feedback to a write is the unexpected variant, and the expected one of a host that changes
its row of EXPECT (92_eei_decisions.md D23). -/
theorem test_pseudoOp_expect :
    (hostStep suggestedHost dc
        (hostStep suggestedHost dc readyHost (.call 1 (.setLocRef 127#8 (.single 0x3F8CCCCD#32)) none true)).1
        (.bus (.received 0x11007F00#29 8#4 zeroBuffer))).2 = [.returned 1 (.error .unexpectedVariant)] ∧
    acceptReply { suggestedHost with expect := { defaultExpect with setLocRef := .parameterFeedback } }
        (.setLocRef 127#8 (.single 0x3F8CCCCD#32)) (.parameterFeedback 17#5 0#16 ⟨0, 0, 0, 0⟩)
      = .ok (.parameterFeedback 17#5 0#16 ⟨0, 0, 0, 0⟩) := by decide +kernel
/-- R170, R174, R210: an index that is not found sends nothing; a bus that is not started fails the call. -/
theorem test_pseudoOp_failures :
    hostStep suggestedHost dc readyHost (.call 1 (.writeParam 127#8 0x1234#16 (.integer 0)) none true)
      = (readyHost, [.returned 1 (.error (.status .notFound))]) ∧
    hostStep suggestedHost dc ⟨idleBus, []⟩ (.call 1 (.disable 127#8) none true)
      = (⟨idleBus, []⟩, [.returned 1 (.error (.submit (.notRunning .notStarted)))]) := by decide
/-- R202, R206: without an override the request waits 2000 ms and no longer. -/
theorem test_default_timeout :
    (hostStep suggestedHost dc (hostStep suggestedHost dc readyHost (.call 1 (.setZero 1#8) none true)).1
      (.bus (.elapsed 1999))).2 = [] ∧
    (hostStep suggestedHost dc (hostStep suggestedHost dc readyHost (.call 1 (.setZero 1#8) none true)).1
      (.bus (.elapsed 2000))).2 = [.returned 1 (.error (.submit .timeout))] := by decide
/-- R213: a failed receive is a TransportError of the outstanding request, and surfaced where there is none. -/
theorem test_receive_failed :
    (busStep dc busyBus .receiveFailed).2
      = [.failed 1 .transport, .sent 2 ⟨0x0400007F#29, 8#4, zeroBuffer⟩] ∧
    busStep dc readyHost.bus .receiveFailed = (readyHost.bus, [.surfaced .transport]) := by decide

/-! ## Witnesses: states and operands that meet the hypotheses of the statements -/

theorem witness_cfgValid : cfgValid dc = true ∧ cfgValid evenCfg = true := by decide +kernel
/-- `wellFormed`, of the arms that can fail it. -/
theorem witness_DecodeEncodeAgree :
    wellFormed (.fpMotorFeedback 0x02FFFFFF#29 8#4 zeroBuffer) = true ∧
    wellFormed (.fpParameterFeedback 0x11000000#29 15#4 zeroBuffer) = true ∧
    wellFormed (.fpFault 0x15000000#29 0#4 zeroBuffer) = true ∧
    wellFormed (.fpUnknown 0x1FFFFFFF#29 8#4 zeroBuffer) = true := by decide
/-- A row that fits, and an identifier that fits none: the last whose bits 23 to 16 are zero, and the first beyond. -/
theorem witness_OutboundIsItsRow :
    (∃ row ∈ reqRows, rowFits row 0x0300FFFF#29 = true) ∧ ∀ row ∈ reqRows, rowFits row 0x03010000#29 = false := by
  decide
/-- Two requests that differ in ports the operation does not name: an unbounded write with different `min`. -/
theorem witness_UnnamedPortsIgnored :
    ∃ p q : Ports, p ≠ q ∧ p.op = 10#4 ∧ q.op = 10#4 ∧ p.target = q.target ∧ p.master = q.master ∧
      p.index = q.index ∧ p.fmt = q.fmt ∧ p.bounded = q.bounded ∧ p.val32 = q.val32 ∧
      (p.bounded = 1#1 → p.min = q.min ∧ p.max = q.max) :=
  ⟨{ zeroPorts with op := 10#4 }, { zeroPorts with op := 10#4, min := f1, torque := f1 }, by decide⟩
theorem witness_UnnamedPortsIgnored_others :
    ∃ p q : Ports, p ≠ q ∧ p.op = q.op ∧ p.op = 13#4 ∧ p.id = q.id ∧ p.dlc = q.dlc ∧ p.B = q.B :=
  ⟨{ zeroPorts with op := 13#4 }, { zeroPorts with op := 13#4, value := f1 }, by decide⟩
theorem witness_StepRunsDecodedInstruction :
    ∃ (s : State) (r : Request) (rest : List Request) (i : Instr), s.requests = r :: rest ∧ decode s.cfg r = .ok i :=
  ⟨{ State.reset with requests := [.inbound 0x15007F00#29 8#4 zeroBuffer] }, _, _, _, rfl, rfl⟩
/-- The three cases of a step: nothing presented, a frame of no row, anything else. -/
theorem witness_StepStopsOnlyOnUnlistedFrame :
    State.reset.requests = [] ∧ (∀ row ∈ reqRows, rowFits row 0x05000000#29 = false) ∧
    ∃ t, step { State.reset with requests := [.op { zeroPorts with op := 14#4 }] } = .next t :=
  ⟨rfl, by decide, _, rfl⟩
theorem witness_ResponseIsAFunctionOfRequest :
    ∃ (s s' t t' : State) (r : Request) (rest rest' : List Request), s ≠ s' ∧ s.requests = r :: rest ∧
      s'.requests = r :: rest' ∧ s.cfg = s'.cfg ∧ step s = .next t ∧ step s' = .next t' :=
  ⟨{ State.reset with requests := [.op { zeroPorts with op := 14#4 }] },
    { State.reset with requests := [.op { zeroPorts with op := 14#4 }], resp := some (.raised .notFound) }, _, _, _, _, _,
    by decide, rfl, rfl, rfl, rfl, rfl⟩
theorem witness_StepKeepsAllowed :
    stateAllowed { State.reset with requests := [.op { zeroPorts with op := 14#4 }] } = true ∧
    ∃ t, step { State.reset with requests := [.op { zeroPorts with op := 14#4 }] } = .next t :=
  ⟨by decide +kernel, _, rfl⟩
/-- Each cause is raised by some instruction under the default configuration. -/
theorem witness_StatusesRaisedBy :
    cfgValid dc = true ∧ run dc (.qencs f31 f0 f30) = some (.raised .rangeError) ∧
    run dc (.fpFault 0x15000000#29 9#4 zeroBuffer) = some (.raised .protocolError) ∧
    run dc (.qdec 0#32 f1 f1 16#8) = some (.raised .invalidOperand) ∧
    run dc (.ptlook 0#16) = some (.raised .notFound) ∧ run dc .reservedOp14 = some (.raised .badOp) := by decide +kernel
theorem witness_ReservedOpsRaiseBadOp : ({ zeroPorts with op := 14#4 } : Ports).op = 14#4 := rfl
theorem witness_RoundingIsNearestEven : (0 : Nat) < 1 ∧ holdable 3 ∧ holdable 0 :=
  ⟨by decide, ⟨3, 0, by decide, rfl⟩, ⟨0, 0, by decide, rfl⟩⟩
/-- A tie between two held values: `2^53 + 1` lies half-way between `2^53` and `2^53 + 2`. -/
theorem witness_RoundingIsNearestEven_tie :
    roundUnits (2 ^ 53 + 1) 1 = 2 ^ 53 ∧ holdable (2 ^ 53 + 2) ∧
    (((2 ^ 53 + 1 : Nat) : Int) - 2 ^ 53).natAbs = (((2 ^ 53 + 1 : Nat) : Int) - (2 ^ 53 + 2 : Nat)).natAbs :=
  ⟨by decide +kernel, ⟨2 ^ 52 + 1, 1, by decide, by decide⟩, by decide⟩
theorem witness_PatternsAndValuesAgree :
    (f64Value 0x8000000000000001#64).isNaN = false ∧ holdable 1 ∧ 1 < unitsOverflow :=
  ⟨by decide +kernel, ⟨1, 0, by decide, rfl⟩, by decide +kernel⟩
/-- A value that is not below zero, of either sign bit; a value near an integer, and a half. -/
theorem witness_RoundTieIsNearest :
    (false = false ∨ (2 ^ 1073 : Nat) = 0) ∧ (true = false ∨ (0 : Nat) = 0) ∧ cfgValid dc = true ∧ cfgValid evenCfg = true ∧ 2 * (((0 : Nat) : Int) - (0 : Nat) * unitsPerOne).natAbs < unitsPerOne ∧
    2 * 2 ^ 1073 = (2 * 0 + 1) * unitsPerOne := by decide +kernel
/-- The least and the greatest `bits`, and an infinite value. -/
theorem witness_QencAnswersCode :
    cfgValid dc = true ∧ qvalid dc f0 f1 1#8 = true ∧ qvalid dc f0 f1 32#8 = true ∧
    (f64Value plusInf).isNaN = false ∧ (f64Value aNaN).isNaN = true := by decide +kernel
/-- `bits` below and above its range, an empty interval at 16 bits, and the first of the five ranges. -/
theorem witness_ValidOperands :
    qvalid dc f0 f1 0#8 = false ∧ qvalid dc f0 f1 33#8 = false ∧ qvalid dc f1 f1 16#8 = false ∧
    cfgValid dc = true ∧ (Config.tMin, Config.tMax) ∈ protocolRanges := by decide +kernel
theorem witness_QencClamps :
    qvalid dc m12 f12 16#8 = true ∧ (f64Value f12).lt (f64Value plusInf) = true ∧
    (f64Value minusInf).lt (f64Value m12) = true := by decide +kernel
theorem witness_QencEndPoints : cfgValid dc = true ∧ qvalid dc m12 f12 32#8 = true := by decide +kernel
theorem witness_QencMonotone :
    cfgValid dc = true ∧ qvalid dc m12 f12 16#8 = true ∧ (f64Value minusInf).le (f64Value f0) = true := by
  decide +kernel
/-- Every one of the five ranges, at both of its ends. -/
theorem witness_QuantizationRoundTrip :
    (cfgValid dc && cfgValid evenCfg &&
      protocolRanges.all fun r => inRange r.1 r.1 r.2 && inRange r.2 r.1 r.2) = true := by decide +kernel
theorem witness_CodesSurviveDecoding :
    cfgValid dc = true ∧ (Config.kdMin, Config.kdMax) ∈ protocolRanges ∧ (65535#32).toNat ≤ 65535 := by decide +kernel
theorem witness_QencsAccepts :
    cfgValid dc = true ∧ qvalid dc f0 f30 16#8 = true ∧ inRange f30 f0 f30 = true ∧
    inRange 0x8000000000000000#64 f0 f30 = true := by decide +kernel
theorem witness_QencsRejects :
    qvalid dc f1 f1 16#8 = false ∧ qvalid dc f0 f30 16#8 = true ∧ inRange 0x403E000000000001#64 f0 f30 = false ∧
    (f64Value plusInf).isFinite = false := by decide +kernel
theorem witness_QdecAnswersValue :
    cfgValid dc = true ∧ qvalid dc m12 f12 1#8 = true ∧ qvalid dc m12 f12 32#8 = true := by decide +kernel
theorem witness_QdecEnds :
    cfgValid dc = true ∧ qvalid dc m12 f12 16#8 = true ∧ 2 ^ (16#8).toNat - 1 ≤ (65535#32).toNat := by decide +kernel
/-- The five ranges at both end codes. -/
theorem witness_ProtocolEndCodes :
    (cfgValid dc && protocolRanges.all fun r =>
      decide (run dc (.qdec 0#32 r.1 r.2 16#8) = some (.ok (.real r.1))) &&
        decide (run dc (.qdec 65535#32 r.1 r.2 16#8) = some (.ok (.real r.2)))) = true := by decide +kernel
theorem witness_NoCodeDecodesToZero :
    cfgValid dc = true ∧
    (Config.tMin, Config.tMax) ∈ [(Config.tMin, Config.tMax), (Config.pMin, Config.pMax), (Config.vMin, Config.vMax)] := by
  decide +kernel
theorem witness_TemperatureIsTenths : cfgValid dc = true ∧ (355#32).toNat ≤ 65535 := by decide +kernel
/-- The operands at which QDEC leaves the finite values: valid, and the sum overflows. -/
theorem witness_QdecIsFinite :
    cfgValid dc = true ∧ qvalid dc 0x7CA8000000000000#64 0x7FEFFFFFFFFFFFFF#64 1#8 = true ∧
    run dc (.qdec 1#32 0x7CA8000000000000#64 0x7FEFFFFFFFFFFFFF#64 1#8) = some (.ok (.real plusInf)) := by
  decide +kernel
theorem witness_IdunpkFbFields : dc.magneticBit = 19#5 := rfl
theorem witness_PtlookFinds :
    distinctIndices dc.paramTable = true ∧ (⟨0x7016#16, .f32, none⟩ : Descriptor) ∈ dc.paramTable ∧
    ∀ d ∈ dc.paramTable, d.index ≠ 0x7021#16 := by decide
theorem witness_ValueFieldReadsBack :
    valueFits .u8 255#32 = true ∧ valueFits .i16 0xFFFF8000#32 = true ∧ valueFits .i16 0x7FFF#32 = true := by decide
/-- The four readings of a binary32 pattern: the infinity, a NaN, the ends of the subnormals and of the normals. -/
theorem witness_ValueReadings :
    ((0xFF800000#32).toNat / 2 ^ 23 % 256 = 255 ∧ (0xFF800000#32).toNat % 2 ^ 23 = 0) ∧
    ((0x7F800001#32).toNat / 2 ^ 23 % 256 = 255 ∧ (0x7F800001#32).toNat % 2 ^ 23 ≠ 0) ∧
    ((0x807FFFFF#32).toNat / 2 ^ 23 % 256 = 0 ∧ f32Value 0#32 = .fin false 0) ∧
    ((0x00800000#32).toNat / 2 ^ 23 % 256 = 1 ∧ (0x7F7FFFFF#32).toNat / 2 ^ 23 % 256 = 254) := by decide +kernel
/-- The four ways a write goes: broken bounds, a misfit, a value outside, a value at the bound. -/
theorem witness_WrparamBuildsOrRefuses :
    qvalid dc f5 f5 16#8 = false ∧ (qvalid dc f0 f3 16#8 = true ∧ valueFits .u8 256#32 = false) ∧
    (valueFits .u8 4#32 = true ∧ (valueNum .u8 4#32).le (f64Value f3) = false) ∧
    (valueFits .u8 3#32 = true ∧ (f64Value f0).le (valueNum .u8 3#32) = true ∧
      (valueNum .u8 3#32).le (f64Value f3) = true) := by decide +kernel
theorem witness_MotionFrame :
    cfgValid dc = true ∧ (f64Value plusInf).isNaN = false ∧ (f64Value aNaN).isNaN = true := by decide +kernel
/-- Unchanged, above, and below. -/
theorem witness_MotionSaturates :
    saturates f1 f1 Config.tMin Config.tMax ∧ saturates f112 f12 Config.tMin Config.tMax ∧
    saturates minusInf m12 Config.tMin Config.tMax :=
  ⟨.inl rfl, .inr (.inl ⟨by decide +kernel, rfl⟩), .inr (.inr ⟨by decide +kernel, rfl⟩)⟩
/-- The mid-range tie of R136 under both tie rules. -/
theorem witness_MotionCorners :
    cfgValid dc = true ∧
    run dc (.fbMotion 1#8 f0 f0 f0 0x406F400000000000#64 0x4004000000000000#64)
      = some (.ok (.frame 0x01800001#29 8#4 ⟨0, 128, 0, 128, 0, 128, 0, 128⟩)) ∧
    run evenCfg (.fbMotion 1#8 f0 f0 f0 0x406F400000000000#64 0x4004000000000000#64)
      = some (.ok (.frame 0x01800001#29 8#4 ⟨0, 128, 0, 128, 0, 128, 0, 128⟩)) := by decide +kernel
theorem witness_BuiltIdentifiersReadBack :
    ∃ t id dlc P, exec (.fbEnable 1#8 0xFD#8) State.reset = .next t ∧ t.resp = some (.ok (.frame id dlc P)) :=
  ⟨_, _, _, _, rfl, rfl⟩
theorem witness_BuiltIdentifiersReadBack_others :
    (∃ t id dlc P, exec (.fbDisable 1#8 0xFD#8) State.reset = .next t ∧ t.resp = some (.ok (.frame id dlc P))) ∧
    (∃ t id dlc P, exec (.fbSetzero 1#8 0xFD#8) State.reset = .next t ∧ t.resp = some (.ok (.frame id dlc P))) ∧
    ∃ t id dlc P, exec (.fbRdparam 1#8 0xFD#8 0x7016#16) State.reset = .next t ∧
      t.resp = some (.ok (.frame id dlc P)) :=
  ⟨⟨_, _, _, _, rfl, rfl⟩, ⟨_, _, _, _, rfl, rfl⟩, _, _, _, _, rfl, rfl⟩
theorem witness_BuiltIdentifiersReadBack_write :
    ∃ t id dlc P, exec (.fbWrparam 1#8 0xFD#8 0x7016#16 .f32 none 0#32) State.reset = .next t ∧
      t.resp = some (.ok (.frame id dlc P)) :=
  ⟨_, _, _, _, rfl, rfl⟩
theorem witness_ParseMotorFeedback :
    cfgValid dc = true ∧ (0x02FFFFFF#29).toNat / 2 ^ 24 = 2 ∧ (7#4) ≠ 8#4 := by decide +kernel
theorem witness_ParseParameterFeedback : (0x11FFFFFF#29).toNat / 2 ^ 24 = 17 ∧ (7#4) ≠ 8#4 := by decide
theorem witness_ParseFault : (0x15000000#29).toNat / 2 ^ 24 = 21 ∧ (8#4).toNat ≤ 8 ∧ (0#4).toNat ≤ 8 := by decide
theorem witness_ParseUnknown :
    ((0x1FFFFFFF#29).toNat / 2 ^ 24 ≠ 2 ∧ (0x1FFFFFFF#29).toNat / 2 ^ 24 ≠ 17 ∧
      (0x1FFFFFFF#29).toNat / 2 ^ 24 ≠ 21) ∧ (8#4).toNat ≤ 8 := by decide
/-- Both sides of each length check: the four arms at 8 and at 9. -/
theorem witness_ProtocolErrorExactly :
    ((0x02000000#29).toNat / 2 ^ 24 = 2 ∧ run dc (.fpMotorFeedback 0x02000000#29 9#4 zeroBuffer)
      = some (.raised .protocolError)) ∧
    ((0x11000000#29).toNat / 2 ^ 24 = 17 ∧ run dc (.fpParameterFeedback 0x11000000#29 7#4 zeroBuffer)
      = some (.raised .protocolError)) ∧
    ((0x15000000#29).toNat / 2 ^ 24 = 21 ∧ run dc (.fpFault 0x15000000#29 8#4 zeroBuffer)
      = some (.ok (.fault 21#5 0#8 zeroBuffer 8#4))) ∧
    ((0x1FFFFFFF#29).toNat / 2 ^ 24 = 31 ∧ run dc (.fpUnknown 0x1FFFFFFF#29 9#4 zeroBuffer)
      = some (.raised .protocolError)) := by decide
/-- The two cases of R37. -/
theorem witness_EchoedIndexSwaps :
    dc.pidxTxOrder ≠ dc.pidxRxOrder ∧
    ({ dc with pidxRxOrder := .little } : Cfg).pidxTxOrder = ({ dc with pidxRxOrder := .little } : Cfg).pidxRxOrder := by
  decide

/-- A caller whose frame the transport refuses. -/
def refusedCaller : Submission := ⟨3, ⟨0x0600007F#29, 1#4, ⟨1, 0, 0, 0, 0, 0, 0, 0⟩⟩, none, false⟩

/-- An outstanding request, with a refused caller before an accepted one at the gate and with a refused one alone; and
nothing outstanding. -/
theorem witness_FaultFrameFailsOutstanding :
    (busyBus.running = true ∧ (0x15000100#29).toNat / 2 ^ 24 = 21 ∧ (8#4).toNat ≤ 8) ∧
    busStep dc { busyBus with gate := refusedCaller :: busyBus.gate } (.received 0x15000100#29 1#4 ⟨7, 1, 1, 1, 1, 1, 1, 1⟩)
      = (⟨true, 0, some ⟨2, 127#8, 4#5, 0, 500⟩, []⟩,
          [.failed 1 (.faultFrame ⟨7, 0, 0, 0, 0, 0, 0, 0⟩), .failed 3 .transport,
           .sent 2 ⟨0x0400007F#29, 8#4, zeroBuffer⟩]) ∧
    busStep dc { busyBus with gate := [refusedCaller] } (.received 0x15000100#29 0#4 zeroBuffer)
      = ({ busyBus with outstanding := none, gate := [] },
          [.failed 1 (.faultFrame zeroBuffer), .failed 3 .transport]) ∧
    ({ busyBus with outstanding := none, gate := [] } : Bus).outstanding = none := by decide
theorem witness_DroppedFramesSettleNothing :
    busyBus.running = true ∧ 8 < (9#4).toNat ∧ ((0x02000000#29).toNat / 2 ^ 24 = 2 ∧ (7#4) ≠ 8#4) ∧
    (0x12000000#29).toNat / 2 ^ 24 ≠ 17 := by decide
/-- A divisor that is not zero, a positive denominator, and the two sides of the overflow: the greatest finite value
plus `2^970` rounds to infinity, plus `2^969` to itself. -/
theorem witness_ArithmeticRoundsOnce :
    (1 : Nat) ≠ 0 ∧ (0 : Nat) < 1 ∧
    fadd (f64Value 0x7FEFFFFFFFFFFFFF#64) (f64Value 0x7C90000000000000#64) = .inf false ∧
    fadd (f64Value 0x7FEFFFFFFFFFFFFF#64) (f64Value 0x7C80000000000000#64) = f64Value 0x7FEFFFFFFFFFFFFF#64 ∧
    f64Value 0x7FEFFFFFFFFFFFFF#64 = .fin false (unitsOverflow - 2 ^ 2045) ∧
    overflowFrom = unitsOverflow - 2 ^ 2044 := by decide +kernel

end Sys2Proof.Tests
end

section
/-! SUPPORT. Rounding to nearest even among the values that binary64 holds, and the arithmetic steps as one rounding of
the exact result (spec/00_scope.md R9, spec/40_quantization.md R81, R82; log 13). -/

namespace Sys2Proof.Machine

/-! ## Nearest among the multiples of the binade's spacing -/

/-- Division to the nearest picks the nearest multiple of the divisor; another multiple is as near only if it is the
neighbour of an even one. -/
theorem divNearestEven_nearest (n d b : Nat) (hd : 0 < d) :
    ((n : Int) - divNearestEven n d * d).natAbs ≤ ((n : Int) - b * d).natAbs ∧
    (((n : Int) - divNearestEven n d * d).natAbs = ((n : Int) - b * d).natAbs → b ≠ divNearestEven n d →
      divNearestEven n d % 2 = 0 ∧
        (divNearestEven n d = b + 1 ∨ (b = divNearestEven n d + 1 ∧ divNearestEven n d * d ≤ n))) := by
  obtain ⟨hlow, hhigh, heven⟩ := divNearestEven_spec n d hd
  generalize divNearestEven n d = q at *
  rw [← Int.natCast_mul, ← Int.natCast_mul]
  rcases Nat.lt_trichotomy b q with h | rfl | h
  · obtain ⟨j, rfl⟩ : ∃ j, q = b + 1 + j := ⟨q - (b + 1), by omega⟩
    have e : (b + 1 + j) * d = b * d + d + j * d := by ring
    refine ⟨by omega, fun htie _ => ?_⟩
    have hj : j * d = 0 := by omega
    have hj : j = 0 := (Nat.mul_eq_zero.mp hj).resolve_right hd.ne'
    exact ⟨heven (.inr (by omega)), .inl (by omega)⟩
  · exact ⟨le_refl _, fun _ hne => absurd rfl hne⟩
  · obtain ⟨j, rfl⟩ : ∃ j, b = q + 1 + j := ⟨b - (q + 1), by omega⟩
    have e : (q + 1 + j) * d = q * d + d + j * d := by ring
    refine ⟨by omega, fun htie _ => ?_⟩
    have hj : j * d = 0 := by omega
    have hj : j = 0 := (Nat.mul_eq_zero.mp hj).resolve_right hd.ne'
    exact ⟨heven (.inl (by omega)), .inr ⟨by omega, by omega⟩⟩

/-- A fraction lies below `2^53` spacings of its binade. -/
theorem lt_binade_top (n d : Nat) (hd : 0 < d) : n < 2 ^ 53 * (d * 2 ^ binadeShift (n / d)) := by
  obtain ⟨h, -⟩ := binadeShift_spec (n / d)
  calc n < 2 ^ (53 + binadeShift (n / d)) * d := (Nat.div_lt_iff_lt_mul hd).mp h
    _ = 2 ^ 53 * (d * 2 ^ binadeShift (n / d)) := by rw [Nat.pow_add]; ring

/-- What binary64 holds is a multiple of a given spacing, or lies below the binade that has it. -/
theorem holdable_multiple_or_below {w : Nat} (h : holdable w) (k : Nat) :
    (∃ b, w = b * 2 ^ k) ∨ (0 < k ∧ w < 2 ^ 52 * 2 ^ k) := by
  obtain ⟨sig, e, hsig, rfl⟩ := h
  rcases Nat.lt_or_ge e k with hlt | hge
  · refine .inr ⟨by omega, ?_⟩
    calc sig * 2 ^ e < 2 ^ 53 * 2 ^ e := Nat.mul_lt_mul_of_pos_right hsig (by positivity)
      _ = 2 ^ 52 * 2 ^ (e + 1) := by rw [Nat.pow_succ 2 e]; ring
      _ ≤ 2 ^ 52 * 2 ^ k := Nat.mul_le_mul_left _ (Nat.pow_le_pow_right (by omega) hlt)
  · exact .inl ⟨sig * 2 ^ (e - k), by rw [Nat.mul_assoc, ← Nat.pow_add, Nat.sub_add_cancel hge]⟩

/-- Among the multiples of the binade's spacing the rounding is the nearest, and its ties are between neighbouring
53-bit significands of which it has the even one. -/
theorem roundUnits_nearest_multiple (n d b : Nat) (hd : 0 < d) :
    ((n : Int) - roundUnits n d * d).natAbs ≤ ((n : Int) - (b * 2 ^ binadeShift (n / d) : Nat) * d).natAbs ∧
    (((n : Int) - roundUnits n d * d).natAbs = ((n : Int) - (b * 2 ^ binadeShift (n / d) : Nat) * d).natAbs →
      b * 2 ^ binadeShift (n / d) ≠ roundUnits n d →
      ∃ a, roundUnits n d = a * 2 ^ binadeShift (n / d) ∧ a % 2 = 0 ∧ a ≤ 2 ^ 53 ∧ b ≤ 2 ^ 53 ∧
        (a = b + 1 ∨ b = a + 1)) := by
  obtain ⟨hq, -⟩ := roundSignificand_bounds n d hd
  have htop := lt_binade_top n d hd
  have hr : roundUnits n d = divNearestEven n (d * 2 ^ binadeShift (n / d)) * 2 ^ binadeShift (n / d) := rfl
  generalize binadeShift (n / d) = k at *
  have hD : 0 < d * 2 ^ k := Nat.mul_pos hd (by positivity)
  obtain ⟨hnear, htie⟩ := divNearestEven_nearest n (d * 2 ^ k) b hD
  have spacing (x : Nat) : ((x * 2 ^ k : Nat) : Int) * d = x * (d * 2 ^ k : Nat) := by push_cast; ring
  rw [hr, spacing, spacing]
  refine ⟨hnear, fun heq hne => ?_⟩
  obtain ⟨heven, hside⟩ := htie heq fun hb => hne (by rw [hb])
  refine ⟨_, rfl, heven, hq, ?_⟩
  rcases hside with hlow | ⟨hhigh, hle⟩
  · exact ⟨by omega, .inl hlow⟩
  · have hlt := Nat.lt_of_mul_lt_mul_right (lt_of_le_of_lt hle htop)
    exact ⟨by omega, .inr hhigh⟩

/-- What lies below the fraction's binade is farther from it than its rounding, since the binade's least value lies
between. -/
theorem roundUnits_nearer_than_below (n d w : Nat) (hd : 0 < d) (hk : 0 < binadeShift (n / d))
    (hw : w < 2 ^ 52 * 2 ^ binadeShift (n / d)) :
    ((n : Int) - roundUnits n d * d).natAbs < ((n : Int) - w * d).natAbs := by
  obtain ⟨hnear, -⟩ := roundUnits_nearest_multiple n d (2 ^ 52) hd
  obtain ⟨-, -, hleast⟩ := roundUnits_error n d hd
  have hleast := hleast hk
  generalize 2 ^ binadeShift (n / d) = p at *
  have hwd : w * d < 2 ^ 52 * p * d := Nat.mul_lt_mul_of_pos_right hw hd
  have e : 2 ^ 52 * (d * p) = 2 ^ 52 * p * d := by ring
  rw [← Int.natCast_mul _ d] at hnear
  rw [← Int.natCast_mul w d]
  omega

/-- Settles O16: what binary64 holds is either a multiple of the spacing of the fraction's binade, among which division
to the nearest even decides, or lies below that binade and is strictly farther. -/
theorem roundingIsNearestEven : Obligations.RoundingIsNearestEven := by
  intro n d hd
  refine ⟨roundUnits_holdable n d hd, fun w hw => ?_⟩
  rcases holdable_multiple_or_below hw (binadeShift (n / d)) with ⟨b, rfl⟩ | ⟨hk, hbelow⟩
  · obtain ⟨hnear, htie⟩ := roundUnits_nearest_multiple n d b hd
    refine ⟨hnear, fun heq hne => ?_⟩
    obtain ⟨a, ha, heven, ha53, hb53, hside⟩ := htie heq hne
    exact ⟨a, b, _, ha, rfl, heven, ha53, hb53, hside⟩
  · have hlt := roundUnits_nearer_than_below n d w hd hk hbelow
    exact ⟨hlt.le, fun heq => absurd heq hlt.ne⟩

/-! ## The threshold of overflow -/

/-- The threshold of overflow lies half-way between the greatest 53-bit significand of its binade, which is odd, and
`2^1024`. -/
theorem roundUnits_overflowFrom : roundUnits overflowFrom 1 = unitsOverflow := by decide +kernel

/-- The threshold is half a spacing of the last binade below `2^1024`. -/
theorem overflowFrom_add : overflowFrom + 2 ^ 2044 = unitsOverflow := by decide +kernel

/-- Below `2^1024` the spacing of a binade is at most that of the last one. -/
theorem binadeShift_le_of_lt_unitsOverflow {q : Nat} (h : q < unitsOverflow) : binadeShift q ≤ 2045 := by
  obtain ⟨-, hleast⟩ := binadeShift_spec q
  rw [unitsOverflow] at h
  by_contra hk
  have hpow : 2 ^ 2098 ≤ 2 ^ (52 + binadeShift q) := by gcongr <;> omega
  exact Nat.not_lt.mpr (hpow.trans (hleast (by omega))) h

/-- Below the threshold a fraction is not rounded up to `2^1024`: the error is at most half the last spacing. -/
theorem roundUnits_lt_unitsOverflow (n d : Nat) (hd : 0 < d) (h : n < overflowFrom * d) :
    roundUnits n d < unitsOverflow := by
  obtain ⟨-, herr, -⟩ := roundUnits_error n d hd
  have hadd := overflowFrom_add
  have hq : n / d < overflowFrom := (Nat.div_lt_iff_lt_mul hd).mpr h
  have hspacing : 2 ^ binadeShift (n / d) ≤ 2 ^ 2044 * 2 :=
    calc 2 ^ binadeShift (n / d) ≤ 2 ^ (2044 + 1) := by
          gcongr
          · exact one_le_two
          · exact binadeShift_le_of_lt_unitsOverflow (by omega)
      _ = 2 ^ 2044 * 2 := pow_succ 2 2044
  generalize 2 ^ 2044 = half at *
  have hhalf : d * 2 ^ binadeShift (n / d) ≤ d * (half * 2) := Nat.mul_le_mul_left d hspacing
  have e1 : d * (half * 2) = 2 * (half * d) := by ring
  have e2 : unitsOverflow * d = overflowFrom * d + half * d := by rw [← hadd, Nat.add_mul]
  exact Nat.lt_of_mul_lt_mul_right (a := d) (by omega)

/-- The rounding with the exponent unbounded reaches `2^1024` exactly from the threshold on. -/
theorem unitsOverflow_le_roundUnits_iff (n d : Nat) (hd : 0 < d) :
    unitsOverflow ≤ roundUnits n d ↔ overflowFrom * d ≤ n := by
  constructor
  · intro hover
    by_contra hlt
    exact absurd hover (Nat.not_le.mpr (roundUnits_lt_unitsOverflow n d hd (Nat.not_le.mp hlt)))
  · intro hle
    rw [← roundUnits_overflowFrom]
    exact roundUnits_mono overflowFrom 1 n d Nat.one_pos hd (by omega)

/-- Rounding with overflow is infinite exactly from the threshold on. -/
theorem roundFlt_eq (neg : Bool) (n d : Nat) (hd : 0 < d) :
    roundFlt neg n d = if overflowFrom * d ≤ n then .inf neg else .fin neg (roundUnits n d) := by
  unfold roundFlt
  by_cases h : overflowFrom * d ≤ n
  · rw [if_pos h, if_neg (Nat.not_lt.mpr ((unitsOverflow_le_roundUnits_iff n d hd).mpr h))]
  · rw [if_neg h, if_pos (Nat.not_le.mp (mt (unitsOverflow_le_roundUnits_iff n d hd).mp h))]

/-- Zero is rounded to zero. -/
theorem roundFlt_zero (neg : Bool) : roundFlt neg 0 1 = .fin neg 0 := by
  have h : roundUnits 0 1 = 0 := by decide
  have hpos : 0 < unitsOverflow := by
    rw [unitsOverflow]
    positivity
  rw [roundFlt, h, if_pos hpos]

/-! ## The arithmetic steps -/

theorem unitsPerOne_pos : 0 < unitsPerOne := by
  rw [unitsPerOne]
  positivity

@[simp] theorem units_natAbs (neg : Bool) (m : Nat) : (Flt.fin neg m).units.natAbs = m := by
  cases neg <;> simp [Flt.units]

theorem units_neg (neg : Bool) (m : Nat) : (Flt.fin (!neg) m).units = -(Flt.fin neg m).units := by
  cases neg <;> simp [Flt.units]

/-- The sign of a product is the exclusive or of the signs. -/
theorem units_mul (na nb : Bool) (ma mb : Nat) :
    (Flt.fin na ma).units * (Flt.fin nb mb).units = (Flt.fin (na != nb) (ma * mb)).units := by
  cases na <;> cases nb <;> simp [Flt.units]

/-- A value scaled by a natural number and given the sign of a divisor. -/
theorem units_scaled (na nb : Bool) (m scale : Nat) :
    (if nb then -(Flt.fin na m).units else (Flt.fin na m).units) * scale =
      (Flt.fin (na != nb) (m * scale)).units := by
  cases na <;> cases nb <;> simp [Flt.units]

/-- The sign bit of a value that is not zero is the sign of its units; a zero keeps its own. -/
theorem sign_eq_of_units (neg : Bool) (m : Nat) :
    neg = if (Flt.fin neg m).units = 0 then neg else decide ((Flt.fin neg m).units < 0) := by
  split
  · rfl
  · cases neg with
    | false => simp [Flt.units]
    | true => simp [Flt.units] at *; omega

/-- `roundFlt` rounds once, given the sign the exact result has. -/
theorem roundsTo_roundFlt (z : Int) (d : Nat) (zeroSign : Bool) (hd : 0 < d) :
    roundsTo z d zeroSign (roundFlt (if z = 0 then zeroSign else decide (z < 0)) z.natAbs d) :=
  roundFlt_eq _ _ _ hd

theorem roundsTo_roundFlt_units (neg : Bool) (m d : Nat) (hd : 0 < d) :
    roundsTo (Flt.fin neg m).units d neg (roundFlt neg m d) := by
  have h := roundsTo_roundFlt (Flt.fin neg m).units d neg hd
  rwa [← sign_eq_of_units, units_natAbs] at h

/-- A sum is rounded once, an exact zero included. -/
theorem roundsTo_roundSum (z : Int) (zeroSign : Bool) : roundsTo z 1 zeroSign (roundSum z zeroSign) := by
  have h := roundsTo_roundFlt z 1 zeroSign Nat.one_pos
  unfold roundSum
  by_cases hz : z = 0
  · subst hz
    rw [if_pos rfl, ← roundFlt_zero]
    exact h
  · rwa [if_neg hz] at h ⊢

theorem fadd_roundsTo (na nb : Bool) (ma mb : Nat) :
    roundsTo ((Flt.fin na ma).units + (Flt.fin nb mb).units) 1 (na && nb) (fadd (.fin na ma) (.fin nb mb)) :=
  roundsTo_roundSum _ _

theorem fsub_roundsTo (na nb : Bool) (ma mb : Nat) :
    roundsTo ((Flt.fin na ma).units - (Flt.fin nb mb).units) 1 (na && !nb) (fsub (.fin na ma) (.fin nb mb)) := by
  rw [sub_eq_add_neg, ← units_neg]
  exact fadd_roundsTo na (!nb) ma mb

theorem fmul_roundsTo (na nb : Bool) (ma mb : Nat) :
    roundsTo ((Flt.fin na ma).units * (Flt.fin nb mb).units) unitsPerOne (na != nb)
      (fmul (.fin na ma) (.fin nb mb)) := by
  rw [units_mul]
  exact roundsTo_roundFlt_units _ _ _ unitsPerOne_pos

theorem fdiv_roundsTo (na nb : Bool) (ma mb : Nat) (hmb : mb ≠ 0) :
    roundsTo ((if nb then -(Flt.fin na ma).units else (Flt.fin na ma).units) * unitsPerOne) mb (na != nb)
      (fdiv (.fin na ma) (.fin nb mb)) := by
  have hr : fdiv (.fin na ma) (.fin nb mb) = roundFlt (na != nb) (ma * unitsPerOne) mb := if_neg hmb
  rw [units_scaled, hr]
  exact roundsTo_roundFlt_units _ _ _ (Nat.pos_of_ne_zero hmb)

/-- Settles O60, from one lemma per step and the threshold of overflow. -/
theorem arithmeticRoundsOnce : Obligations.ArithmeticRoundsOnce := by
  refine ⟨fun na nb ma mb => ⟨?_, ?_, ?_, ?_⟩, rfl, ?_, unitsOverflow_le_roundUnits_iff⟩
  · exact fadd_roundsTo na nb ma mb
  · exact fsub_roundsTo na nb ma mb
  · exact fmul_roundsTo na nb ma mb
  · exact fdiv_roundsTo na nb ma mb
  · rw [unitsOverflow, unitsPerOne, ← Nat.pow_add]

end Sys2Proof.Machine
end

section
/-! SUPPORT. The dispatch and the step, said once: what an instruction answers is a function of the configuration
(spec/10_state.md R11), and a step can do three things (spec/10_state.md R13, R22, spec/20_memory.md R44). -/

namespace Sys2Proof.Machine

/-! ## An instruction's answer -/

/-- What CGC answers to an instruction, with the rest of the state out of the picture (R11); `exec_eq_respond` ties it to
`exec`. -/
def answer (c : Cfg) : Instr → Except Raise Result
  | .qenc value mn mx bits => do let q ← qencValue c (f64Value value) mn mx bits; pure (.code q)
  | .qencs value mn mx => do let q ← qencsValue c (f64Value value) mn mx; pure (.code q)
  | .qdec raw mn mx bits => do let x ← qdecValue c raw mn mx bits; pure (.real x)
  | .idpack opcode data16 target => .ok (.ident (packId opcode data16 target))
  | .idunpkReq id => .ok (.requestFields (idOpcode id) (idData16 id) (idLow id))
  | .idunpkFb id => .ok (.feedbackFields (idOpcode id) (idFaults id) (idMode id) (idMid id) (idLow id))
  | .ptlook index =>
      match lookup c.paramTable index with
      | some d => .ok (.descriptor d.fmt d.bounds)
      | none => .error .notFound
  | .fbEnable target master => .ok (enableFrame master target)
  | .fbDisable target master => .ok (stopFrame master target)
  | .fbSetzero target master => .ok (setZeroFrame master target)
  | .fbWrparam target master index fmt bounds val32 => do
      pvalidate c fmt bounds val32
      pure (writeFrame c master target index (serialise c.pvalOrder fmt val32))
  | .fbRdparam target master index => .ok (readFrame c master target index)
  | .fbMotion target torque angle velocity kp kd => do
      let tq ← quantField c torque Config.tMin Config.tMax
      let aq ← quantField c angle Config.pMin Config.pMax
      let vq ← quantField c velocity Config.vMin Config.vMax
      let pq ← quantField c kp Config.kpMin Config.kpMax
      let dq ← quantField c kd Config.kdMin Config.kdMax
      pure (motionFrame c target tq aq vq pq dq)
  | .fpParse id dlc payload => parseFrame c id dlc payload
  | .reservedOp14 => .error .badOp
  | .reservedOp15 => .error .badOp
  | .fpMotorFeedback id dlc payload => lengthChecked dlc (armMotorFeedback c id dlc payload)
  | .fpParameterFeedback _ dlc payload => lengthChecked dlc (armParameterFeedback c dlc payload)
  | .fpFault id dlc payload => lengthChecked dlc (armFault id dlc payload)
  | .fpUnknown id dlc _ => lengthChecked dlc (armUnknown id)
  | .wireMotorControl data16 target aq vq pq dq => .ok (motionFrame c target data16 aq vq pq dq)
  | .wireMotorEnable master target => .ok (enableFrame master target)
  | .wireMotorStop master target => .ok (stopFrame master target)
  | .wireSetMechanicalZero master target => .ok (setZeroFrame master target)
  | .wireSingleParamRead master target index => .ok (readFrame c master target index)
  | .wireSingleParamWrite master target index v => .ok (writeFrame c master target index v)
  | .wireGetDeviceId data16 target => .ok (bareIdentifier .getDeviceId data16 target)
  | .wireSetMotorCanId data16 target => .ok (bareIdentifier .setMotorCanId data16 target)
  | .wireParamTableWrite data16 target => .ok (bareIdentifier .paramTableWrite data16 target)

/-- The response bundle of an answer (R17, R190). -/
def responseOf : Except Raise Result → Response
  | .ok r => .ok r
  | .error e => .raised e

@[simp] theorem responseOf_ok (r : Result) : responseOf (.ok r) = .ok r := rfl
@[simp] theorem responseOf_error (e : Raise) : responseOf (.error e) = .raised e := rfl

theorem settle_eq_respond (a : Except Raise Result) (s : State) : settle a s = .next (s.respond (responseOf a)) := by
  cases a <;> rfl

theorem execPtlook_eq_settle (index : BitVec 16) (s : State) :
    execPtlook index s = settle (answer s.cfg (.ptlook index)) s := by
  rcases lookup_cases s.cfg.paramTable index with ⟨d, -, -, hd⟩ | ⟨-, hn⟩
  · simp [execPtlook, answer, hd]
  · simp [execPtlook, answer, hn]

theorem exec_eq_settle (i : Instr) (s : State) : exec i s = settle (answer s.cfg i) s := by
  cases i with
  | ptlook index => exact execPtlook_eq_settle index s
  | _ => rfl

/-- Every instruction completes, and writes the response alone (R12, R15, R20). -/
theorem exec_eq_respond (i : Instr) (s : State) : exec i s = .next (s.respond (responseOf (answer s.cfg i))) := by
  rw [exec_eq_settle, settle_eq_respond]

/-! ## What a step can do -/

/-- The state after the next request, `i`, has run: the request taken off the ports, the response replaced (R44). -/
def State.afterInstr (s : State) (rest : List Request) (i : Instr) : State :=
  { s with requests := rest, resp := some (responseOf (answer s.cfg i)) }

@[simp] theorem afterInstr_cfg (s : State) (rest : List Request) (i : Instr) : (s.afterInstr rest i).cfg = s.cfg := rfl
@[simp] theorem afterInstr_requests (s : State) (rest : List Request) (i : Instr) :
    (s.afterInstr rest i).requests = rest := rfl
@[simp] theorem afterInstr_resp (s : State) (rest : List Request) (i : Instr) :
    (s.afterInstr rest i).resp = some (responseOf (answer s.cfg i)) := rfl

theorem step_of_no_request {s : State} (h : s.requests = []) : step s = .next s := by
  simp [step, fetch, h]

theorem step_of_decode_ok {s : State} {r : Request} {rest : List Request} {i : Instr} (h : s.requests = r :: rest)
    (hd : decode s.cfg r = .ok i) : step s = exec i { s with requests := rest } := by
  simp [step, fetch, h, hd]

theorem step_of_decode_error {s : State} {r : Request} {rest : List Request} {id : Ident} (h : s.requests = r :: rest)
    (hd : decode s.cfg r = .error (.noReqRow id)) : step s = .refused (.noReqRow id) := by
  simp [step, fetch, h, hd]

/-- A step finds no request and does nothing, or runs the next request, or refuses an outbound frame that is no
instruction. -/
theorem step_cases (s : State) :
    (s.requests = [] ∧ step s = .next s) ∨
    (∃ r rest i, s.requests = r :: rest ∧ decode s.cfg r = .ok i ∧ step s = .next (s.afterInstr rest i)) ∨
    (∃ id B rest, s.requests = .outbound id B :: rest ∧ decodeOutbound s.cfg id B = .error (.noReqRow id) ∧
      step s = .refused (.noReqRow id)) := by
  rcases fetch_cases s with ⟨h, -⟩ | ⟨r, rest, i, h, hd, -⟩ | ⟨r, rest, e, h, hd, -⟩
  · exact .inl ⟨h, step_of_no_request h⟩
  · refine .inr (.inl ⟨r, rest, i, h, hd, ?_⟩)
    rw [step_of_decode_ok h hd, exec_eq_respond]
    rfl
  · obtain ⟨id, B, rfl, ho⟩ := decode_error s.cfg r e hd
    obtain rfl := decodeOutbound_error s.cfg id B e ho
    exact .inr (.inr ⟨id, B, rest, h, ho, step_of_decode_error h hd⟩)

/-- Requests that decode alike make the same step. -/
theorem step_congr_of_decode (s : State) (rest : List Request) {r r' : Request}
    (h : decode s.cfg r = decode s.cfg r') :
    step { s with requests := r :: rest } = step { s with requests := r' :: rest } := by
  rcases hd : decode s.cfg r' with ⟨id⟩ | i
  · exact (step_of_decode_error (s := { s with requests := r :: rest }) rfl (h.trans hd)).trans
      (step_of_decode_error (s := { s with requests := r' :: rest }) rfl hd).symm
  · exact (step_of_decode_ok (s := { s with requests := r :: rest }) rfl (h.trans hd)).trans
      (step_of_decode_ok (s := { s with requests := r' :: rest }) rfl hd).symm

end Sys2Proof.Machine
end

section
/-! SUPPORT. Laws of the decoder: the encoder's requests read back (spec/30_encoding.md R51 to R65), the frames that are
no row of the table (R64; log 9), and the ports an operation reads (spec/10_state.md R16). -/

namespace Sys2Proof.Machine

/-! ## Reading the encoder's requests back -/

/-- The catch-all row is an inbound frame's when no other arm is its own (R64, R155). -/
theorem decodeInbound_of_hasOwnArm_false {id : Ident} (h : hasOwnArm (idOpcode id) = false) (dlc : BitVec 4)
    (B : Buffer) : decodeInbound id dlc B = .fpUnknown id dlc B := by
  simp only [hasOwnArm, Bool.or_eq_false_iff, beq_eq_false_iff_ne] at h
  simp [decodeInbound, h]

theorem decode_encode_fbWrparam (c : Cfg) (target master : Byte) (index : BitVec 16) (fmt : Fmt)
    (bounds : Option Bounds) (val32 : BitVec 32) :
    decode c (encode c (.fbWrparam target master index fmt bounds val32)) =
      .ok (.fbWrparam target master index fmt bounds val32) := by
  simp [decode, encode, decodeOp, boundsOf_withBounds, zeroPorts]

/-- The operation ports are read back by the `op` code, an inbound frame by the wire opcode its well-formedness fixes, an
outbound frame by the fields of its identifier and payload. -/
theorem decode_encode (c : Cfg) (i : Instr) (h : wellFormed i = true) : decode c (encode c i) = .ok i := by
  cases i with
  | fbWrparam target master index fmt bounds val32 => exact decode_encode_fbWrparam ..
  | fpMotorFeedback id dlc B | fpParameterFeedback id dlc B | fpFault id dlc B =>
    simp only [wellFormed, beq_iff_eq] at h
    simp [decode, encode, decodeInbound, h]
  | fpUnknown id dlc B =>
    simp only [wellFormed, Bool.not_eq_true'] at h
    simp [decode, encode, decodeInbound_of_hasOwnArm_false h]
  | wireMotorControl data16 target aq vq pq dq =>
    obtain ⟨ha, hv, hp, hd⟩ := readU16_motionBuffer c aq vq pq dq
    simp [decode, encode, decodeOutbound, ha, hv, hp, hd]
  | wireSingleParamRead master target index | wireSingleParamWrite master target index v =>
    simp [decode, encode, decodeOutbound, readU16_paramBuffer, readQuad_paramBuffer]
  | wireMotorEnable | wireMotorStop | wireSetMechanicalZero | wireGetDeviceId | wireSetMotorCanId
  | wireParamTableWrite => simp [decode, encode, decodeOutbound]
  | _ => rfl

/-- The decoder answers well-formed instructions only: an inbound frame selects the arm of its wire opcode. -/
theorem wellFormed_of_decode {c : Cfg} {r : Request} {i : Instr} (h : decode c r = .ok i) : wellFormed i = true := by
  cases r with
  | op p =>
    cases h
    unfold decodeOp
    split <;> rfl
  | inbound id dlc B =>
    cases h
    unfold decodeInbound
    split_ifs with h2 h17 h21
    · simp [wellFormed, h2]
    · simp [wellFormed, h17]
    · simp [wellFormed, h21]
    · simp [wellFormed, hasOwnArm, h2, h17, h21]
  | outbound id B =>
    change decodeOutbound c id B = .ok i at h
    unfold decodeOutbound at h
    repeat' split at h
    all_goals cases h <;> rfl

/-! ## Frames of the request layout that are no row -/

/-- The identifiers no `REQ` row is matched by: the four opcodes of the rows that mask the opcode alone, and the five of
the rows that also ask bits 23 to 16 to be zero (R59 (a), R64). -/
def fitsNoReqRow (id : Ident) : Prop :=
  (idOpcode id ≠ 0#5 ∧ idOpcode id ≠ 1#5 ∧ idOpcode id ≠ 7#5 ∧ idOpcode id ≠ 8#5) ∧
  (idHigh id = 0#8 → idOpcode id ≠ 3#5 ∧ idOpcode id ≠ 4#5 ∧ idOpcode id ≠ 6#5 ∧ idOpcode id ≠ 17#5 ∧
    idOpcode id ≠ 18#5)

theorem forall_reqRows_rowFits_false_iff (id : Ident) :
    (∀ row ∈ reqRows, rowFits row id = false) ↔ fitsNoReqRow id := by
  have f (m : String) (p : Ident) (k : BitVec 5) (h : p = packId k 0 0) :
      rowFits ⟨m, 0x1F000000#29, p⟩ id = (idOpcode id == k) := by
    rw [h, opcodeMask_fits]
  have g (m : String) (p : Ident) (k : BitVec 5) (h : p = packId k 0 0) :
      rowFits ⟨m, 0x1FFF0000#29, p⟩ id = (idOpcode id == k && idHigh id == 0#8) := by
    rw [h, builtMask_fits]
  simp only [reqRows, List.forall_mem_cons, f _ 0x01000000#29 1#5 rfl, g _ 0x03000000#29 3#5 rfl,
    g _ 0x04000000#29 4#5 rfl, g _ 0x06000000#29 6#5 rfl, g _ 0x11000000#29 17#5 rfl, g _ 0x12000000#29 18#5 rfl,
    f _ 0x00000000#29 0#5 rfl, f _ 0x07000000#29 7#5 rfl, f _ 0x08000000#29 8#5 rfl, fitsNoReqRow,
    beq_eq_false_iff_ne, Bool.and_eq_false_iff, List.not_mem_nil, false_implies, implies_true]
  tauto

theorem decodeOutbound_error_iff (c : Cfg) (id : Ident) (B : Buffer) :
    decodeOutbound c id B = .error (.noReqRow id) ↔ fitsNoReqRow id := by
  unfold decodeOutbound fitsNoReqRow
  repeat' split
  all_goals simp_all

/-! ## The ports an operation reads -/

/-- The sixteen values of the `op` port. -/
theorem op_cases (k : BitVec 4) :
    k = 0#4 ∨ k = 1#4 ∨ k = 2#4 ∨ k = 3#4 ∨ k = 4#4 ∨ k = 5#4 ∨ k = 6#4 ∨ k = 7#4 ∨ k = 8#4 ∨ k = 9#4 ∨ k = 10#4 ∨
      k = 11#4 ∨ k = 12#4 ∨ k = 13#4 ∨ k = 14#4 ∨ k = 15#4 := by
  decide +revert

/-- `min` and `max` are read only when `bounded` is 1 (R115). -/
theorem boundsOf_congr {b : BitVec 1} {mn mx mn' mx' : F64} (h : b = 1#1 → mn = mn' ∧ mx = mx') :
    boundsOf b mn mx = boundsOf b mn' mx' := by
  unfold boundsOf
  split
  · next hb =>
    obtain ⟨rfl, rfl⟩ := h hb
    rfl
  · rfl

end Sys2Proof.Machine
end

section
/-! SUPPORT. The order of the exact values is kept by rounding and by the arithmetic steps, a value that binary64 holds is
read back from its pattern, and so QDEC is monotone in its code (spec/40_quantization.md R81, R82, R88). -/

namespace Sys2Proof.Machine

/-! ## The order of values -/

@[simp] theorem fin_le_fin_iff (na nb : Bool) (ma mb : Nat) :
    (Flt.fin na ma).le (.fin nb mb) = true ↔ (Flt.fin na ma).units ≤ (Flt.fin nb mb).units := by
  simp [Flt.le]

theorem inf_true_le {v : Flt} (h : v.isNaN = false) : (Flt.inf true).le v = true := by
  cases v <;> simp_all [Flt.le, Flt.isNaN]

theorem le_inf_false {v : Flt} (h : v.isNaN = false) : v.le (.inf false) = true := by
  cases v <;> simp_all [Flt.le, Flt.isNaN]

/-- One value is at most another because one of them is the infinity of its side, or as their units say. -/
theorem Flt.le_cases {a b : Flt} (h : a.le b = true) :
    (a = .inf true ∧ b.isNaN = false) ∨ (b = .inf false ∧ a.isNaN = false) ∨
    ∃ na ma nb mb, a = .fin na ma ∧ b = .fin nb mb ∧ (Flt.fin na ma).units ≤ (Flt.fin nb mb).units := by
  cases a <;> cases b <;> simp_all [Flt.le, Flt.isNaN]

/-- The comparison is false of a NaN (R9). -/
theorem Flt.isNaN_of_le {a b : Flt} (h : a.le b = true) : a.isNaN = false ∧ b.isNaN = false := by
  rcases Flt.le_cases h with ⟨rfl, hb⟩ | ⟨rfl, ha⟩ | ⟨na, ma, nb, mb, rfl, rfl, -⟩
  · exact ⟨rfl, hb⟩
  · exact ⟨ha, rfl⟩
  · exact ⟨rfl, rfl⟩

theorem Flt.le_trans {a b c : Flt} (hab : a.le b = true) (hbc : b.le c = true) : a.le c = true := by
  obtain ⟨hna, -⟩ := Flt.isNaN_of_le hab
  obtain ⟨-, hnc⟩ := Flt.isNaN_of_le hbc
  rcases Flt.le_cases hab with ⟨rfl, -⟩ | ⟨rfl, -⟩ | ⟨na, ma, nb, mb, rfl, rfl, hle⟩
  · exact inf_true_le hnc
  · cases c <;> simp_all [Flt.le]
  · cases c with
    | nan => simp [Flt.isNaN] at hnc
    | inf s => exact hbc
    | fin nc mc =>
      rw [fin_le_fin_iff] at hbc ⊢
      omega

/-- What keeps both infinities and is monotone on the finite values is monotone. -/
theorem Flt.le_map {f : Flt → Flt} (hneg : f (.inf true) = .inf true) (hpos : f (.inf false) = .inf false)
    (hfin : ∀ na ma nb mb, (Flt.fin na ma).units ≤ (Flt.fin nb mb).units →
      (f (.fin na ma)).le (f (.fin nb mb)) = true)
    {a b : Flt} (h : a.le b = true) : (f a).le (f b) = true := by
  have notNaN (v : Flt) (hv : v.isNaN = false) : (f v).isNaN = false := by
    cases v with
    | nan => simp [Flt.isNaN] at hv
    | inf s => cases s <;> simp [hneg, hpos, Flt.isNaN]
    | fin s m => exact (Flt.isNaN_of_le (hfin s m s m le_rfl)).1
  rcases Flt.le_cases h with ⟨rfl, hb⟩ | ⟨rfl, ha⟩ | ⟨na, ma, nb, mb, rfl, rfl, hle⟩
  · rw [hneg]
    exact inf_true_le (notNaN b hb)
  · rw [hpos]
    exact le_inf_false (notNaN a ha)
  · exact hfin na ma nb mb hle

/-! ## Rounding keeps the order -/

theorem unitsOverflow_pos : 0 < unitsOverflow := by
  rw [unitsOverflow]
  positivity

theorem roundUnits_zero (d : Nat) (hd : 0 < d) : roundUnits 0 d = 0 := by
  simpa using roundUnits_exact 0 d hd ⟨0, 0, by decide, rfl⟩

theorem roundFlt_false_mono {n d n' d' : Nat} (hd : 0 < d) (hd' : 0 < d') (h : n * d' ≤ n' * d) :
    (roundFlt false n d).le (roundFlt false n' d') = true := by
  have := roundUnits_mono n d n' d' hd hd' h
  unfold roundFlt
  split_ifs <;> simp [Flt.le, Flt.units] <;> omega

theorem roundFlt_true_anti {n d n' d' : Nat} (hd : 0 < d) (hd' : 0 < d') (h : n * d' ≤ n' * d) :
    (roundFlt true n' d').le (roundFlt true n d) = true := by
  have := roundUnits_mono n d n' d' hd hd' h
  unfold roundFlt
  split_ifs <;> simp [Flt.le, Flt.units] <;> omega

theorem roundFlt_true_le_false (n d n' d' : Nat) : (roundFlt true n d).le (roundFlt false n' d') = true := by
  unfold roundFlt
  split_ifs <;> simp [Flt.le, Flt.units]

/-- A greater signed fraction is not rounded to less, infinities and signed zeros included. -/
theorem roundFlt_mono {na nb : Bool} {n d n' d' : Nat} (hd : 0 < d) (hd' : 0 < d')
    (h : (Flt.fin na n).units * d' ≤ (Flt.fin nb n').units * d) : (roundFlt na n d).le (roundFlt nb n' d') = true := by
  cases na <;> cases nb <;> simp only [Flt.units, Bool.false_eq_true, if_true, if_false] at h
  · exact roundFlt_false_mono hd hd' (by exact_mod_cast h)
  · have hsum : n * d' + n' * d ≤ 0 := by
      zify
      linarith
    obtain ⟨hn, hn'⟩ := Nat.add_eq_zero_iff.mp (Nat.le_zero.mp hsum)
    obtain rfl := (Nat.mul_eq_zero.mp hn).resolve_right hd'.ne'
    obtain rfl := (Nat.mul_eq_zero.mp hn').resolve_right hd.ne'
    have hzero (neg : Bool) (e : Nat) (he : 0 < e) : roundFlt neg 0 e = .fin neg 0 := by
      rw [roundFlt, roundUnits_zero e he, if_pos unitsOverflow_pos]
    simp [hzero, hd, hd', Flt.units]
  · exact roundFlt_true_le_false n d n' d'
  · refine roundFlt_true_anti hd' hd ?_
    zify
    linarith

/-- The rounding of a sum is the rounding of a fraction over one, with the sign the sum has. -/
theorem roundSum_eq_roundFlt (z : Int) (zeroSign : Bool) :
    ∃ neg, roundSum z zeroSign = roundFlt neg z.natAbs 1 ∧ (Flt.fin neg z.natAbs).units = z := by
  unfold roundSum
  by_cases hz : z = 0
  · subst hz
    exact ⟨zeroSign, by simp [roundFlt_zero], by simp [Flt.units]⟩
  · refine ⟨decide (z < 0), by rw [if_neg hz], ?_⟩
    by_cases hneg : z < 0
    · simp only [Flt.units, hneg, decide_true, if_true]
      omega
    · simp only [Flt.units, hneg, decide_false, Bool.false_eq_true, if_false]
      omega

theorem roundSum_mono {z z' : Int} (h : z ≤ z') (s s' : Bool) : (roundSum z s).le (roundSum z' s') = true := by
  obtain ⟨neg, hr, hu⟩ := roundSum_eq_roundFlt z s
  obtain ⟨neg', hr', hu'⟩ := roundSum_eq_roundFlt z' s'
  rw [hr, hr']
  exact roundFlt_mono Nat.one_pos Nat.one_pos (by rw [hu, hu']; simpa using h)

/-! ## The arithmetic steps keep the order -/

theorem fadd_fin_mono {a b : Flt} (h : a.le b = true) (neg : Bool) (m : Nat) :
    (fadd a (.fin neg m)).le (fadd b (.fin neg m)) = true :=
  Flt.le_map (f := fun v => fadd v (.fin neg m)) rfl rfl (fun _ _ _ _ hu => roundSum_mono (by omega) _ _) h

/-- Dividing by a positive value. -/
theorem fdiv_pos_mono {a b : Flt} (h : a.le b = true) {m : Nat} (hm : m ≠ 0) :
    (fdiv a (.fin false m)).le (fdiv b (.fin false m)) = true := by
  refine Flt.le_map (f := fun v => fdiv v (.fin false m)) rfl rfl (fun na ma nb mb hu => ?_) h
  have hpos := Nat.pos_of_ne_zero hm
  simp only [fdiv, if_neg hm]
  refine roundFlt_mono hpos hpos ?_
  simp only [← units_scaled, Bool.false_eq_true, if_false]
  exact mul_le_mul_of_nonneg_right (mul_le_mul_of_nonneg_right hu (Int.natCast_nonneg _)) (Int.natCast_nonneg _)

/-- Multiplying finite values by one that is not negative. -/
theorem fmul_fin_mono {na nb : Bool} {ma mb : Nat} (h : (Flt.fin na ma).units ≤ (Flt.fin nb mb).units) (m : Nat) :
    (fmul (.fin na ma) (.fin false m)).le (fmul (.fin nb mb) (.fin false m)) = true := by
  refine roundFlt_mono unitsPerOne_pos unitsPerOne_pos ?_
  simp only [← units_mul]
  have hm : 0 ≤ (Flt.fin false m).units := by simp [Flt.units]
  exact mul_le_mul_of_nonneg_right (mul_le_mul_of_nonneg_right h hm) (Int.natCast_nonneg _)

/-! ## Values that binary64 holds -/

/-- The values that have a pattern of their own (R81): infinities, and finite values of 53 significant bits below the
overflow. -/
def Flt.held (v : Flt) : Prop :=
  v.isNaN = false ∧ ∀ neg mag, v = .fin neg mag → holdable mag ∧ mag < unitsOverflow

theorem held_inf (neg : Bool) : (Flt.inf neg).held := ⟨rfl, fun _ _ h => by cases h⟩

theorem held_fin {neg : Bool} {mag : Nat} (h : holdable mag) (hlt : mag < unitsOverflow) : (Flt.fin neg mag).held :=
  ⟨rfl, fun _ _ e => by cases e; exact ⟨h, hlt⟩⟩

theorem held_roundFlt (neg : Bool) (n d : Nat) (hd : 0 < d) : (roundFlt neg n d).held := by
  unfold roundFlt
  by_cases h : roundUnits n d < unitsOverflow
  · rw [if_pos h]
    exact held_fin (roundUnits_holdable n d hd) h
  · rw [if_neg h]
    exact held_inf neg

theorem held_roundSum (z : Int) (zeroSign : Bool) : (roundSum z zeroSign).held := by
  obtain ⟨neg, h, -⟩ := roundSum_eq_roundFlt z zeroSign
  rw [h]
  exact held_roundFlt neg z.natAbs 1 Nat.one_pos

theorem held_fadd_fin {a : Flt} (h : a.isNaN = false) (neg : Bool) (m : Nat) : (fadd a (.fin neg m)).held := by
  cases a with
  | nan => simp [Flt.isNaN] at h
  | inf s => exact held_inf s
  | fin s k => exact held_roundSum _ _

/-! ## A pattern's value -/

@[simp] theorem f64Sign_append (neg : Bool) (w : BitVec 63) : f64Sign (BitVec.ofBool neg ++ w) = neg := by
  unfold f64Sign
  rw [BitVec.getLsbD_append]
  simp

theorem toNat_signed (neg : Bool) (w : BitVec 63) :
    (BitVec.ofBool neg ++ w).toNat = (BitVec.ofBool neg).toNat * 2 ^ 63 + w.toNat := by
  rw [BitVec.toNat_append, ← Nat.shiftLeft_add_eq_or_of_lt w.isLt, Nat.shiftLeft_eq]

@[simp] theorem f64Exponent_append (neg : Bool) (w : BitVec 63) :
    f64Exponent (BitVec.ofBool neg ++ w) = w.toNat / 2 ^ 52 := by
  have hw := w.isLt
  rw [f64Exponent, BitVec.extractLsb'_toNat, toNat_signed, Nat.shiftRight_eq_div_pow]
  omega

@[simp] theorem f64Fraction_append (neg : Bool) (w : BitVec 63) :
    f64Fraction (BitVec.ofBool neg ++ w) = w.toNat % 2 ^ 52 := by
  rw [f64Fraction, BitVec.extractLsb'_toNat, toNat_signed, Nat.shiftRight_eq_div_pow]
  omega

/-- The value of a sign bit and the 63 bits below it. -/
theorem f64Value_append (neg : Bool) (w : BitVec 63) :
    f64Value (BitVec.ofBool neg ++ w) =
      if w.toNat / 2 ^ 52 = 2047 then if w.toNat % 2 ^ 52 = 0 then .inf neg else .nan
      else if w.toNat / 2 ^ 52 = 0 then .fin neg (w.toNat % 2 ^ 52)
      else .fin neg ((2 ^ 52 + w.toNat % 2 ^ 52) * 2 ^ (w.toNat / 2 ^ 52 - 1)) := by
  simp only [f64Value, f64Sign_append, f64Exponent_append, f64Fraction_append]

theorem f64Value_f64Pattern_inf (neg : Bool) : f64Value (f64Pattern (.inf neg)) = .inf neg := by
  rw [f64Pattern, f64Value_append]
  simp

/-- The 53-bit significand of a value binary64 holds, and its shift. -/
theorem exists_significand {mag : Nat} (h : holdable mag) :
    ∃ sig, mag = sig * 2 ^ binadeShift mag ∧ sig < 2 ^ 53 ∧ (0 < binadeShift mag → 2 ^ 52 ≤ sig) := by
  obtain ⟨hlt, hge⟩ := binadeShift_spec mag
  have hcases := holdable_multiple_or_below h (binadeShift mag)
  generalize binadeShift mag = k at *
  rw [Nat.pow_add] at hlt hge
  rcases hcases with ⟨sig, rfl⟩ | ⟨hk, hbelow⟩
  · exact ⟨sig, rfl, Nat.lt_of_mul_lt_mul_right hlt, fun hk => Nat.le_of_mul_le_mul_right (hge hk) (by positivity)⟩
  · exact absurd hbelow (Nat.not_lt.mpr (hge hk))

/-- The 63 bits below the sign: the shift counted above the significand, whose top bit makes the exponent field one
more than the shift. -/
theorem f64Value_f64Pattern_fin {neg : Bool} {mag : Nat} (h : holdable mag) (hlt : mag < unitsOverflow) :
    f64Value (f64Pattern (.fin neg mag)) = .fin neg mag := by
  obtain ⟨sig, hmag, hsig, hnormal⟩ := exists_significand h
  have hk := binadeShift_le_of_lt_unitsOverflow hlt
  rw [f64Pattern, f64Value_append]
  generalize binadeShift mag = k at *
  subst hmag
  rw [Nat.mul_div_cancel _ (by positivity), BitVec.toNat_ofNat, Nat.mod_eq_of_lt (by omega)]
  by_cases hsub : sig < 2 ^ 52
  · obtain rfl : k = 0 := by omega
    have hexp : (0 * 2 ^ 52 + sig) / 2 ^ 52 = 0 := by omega
    have hfrac : (0 * 2 ^ 52 + sig) % 2 ^ 52 = sig := by omega
    rw [hexp, hfrac, if_neg (by decide), if_pos rfl, Nat.pow_zero, Nat.mul_one]
  · have hexp : (k * 2 ^ 52 + sig) / 2 ^ 52 = k + 1 := by omega
    have hfrac : 2 ^ 52 + (k * 2 ^ 52 + sig) % 2 ^ 52 = sig := by omega
    rw [hexp, hfrac, if_neg (by omega), if_neg (by omega), Nat.add_sub_cancel]

theorem f64Value_f64Pattern {v : Flt} (h : v.held) : f64Value (f64Pattern v) = v := by
  obtain ⟨hnan, hfin⟩ := h
  cases v with
  | nan => simp [Flt.isNaN] at hnan
  | inf neg => exact f64Value_f64Pattern_inf neg
  | fin neg mag =>
    obtain ⟨hold, hlt⟩ := hfin neg mag rfl
    exact f64Value_f64Pattern_fin hold hlt

/-! ## Whole numbers, and the bounds QU accepts -/

theorem fltOfNat_eq_fin {n : Nat} (h : n < 2 ^ 53) : fltOfNat n = .fin false (n * unitsPerOne) := by
  have hexact : roundUnits (n * unitsPerOne) 1 = n * unitsPerOne := by
    simpa using roundUnits_exact (n * unitsPerOne) 1 Nat.one_pos ⟨n, 1074, h, by rw [unitsPerOne]⟩
  have hlt : n * unitsPerOne < unitsOverflow :=
    calc n * unitsPerOne < 2 ^ 53 * unitsPerOne := Nat.mul_lt_mul_of_pos_right h unitsPerOne_pos
      _ = 2 ^ (53 + 1074) := by rw [unitsPerOne, Nat.pow_add]
      _ ≤ unitsOverflow := by
        rw [unitsOverflow]
        gcongr <;> omega
  rw [fltOfNat, roundFlt, hexact, if_pos hlt]

/-- A sum that is not negative is rounded to a value without a sign, where it does not overflow. -/
theorem roundSum_eq_fin {z : Int} (hz : 0 < z) {zeroSign : Bool} (h : (roundSum z zeroSign).isFinite = true) :
    ∃ m, roundSum z zeroSign = .fin false m := by
  have hneg : decide (z < 0) = false := decide_eq_false (by omega)
  rw [roundSum, if_neg hz.ne', hneg, roundFlt] at *
  by_cases hlt : roundUnits z.natAbs 1 < unitsOverflow
  · exact ⟨_, if_pos hlt⟩
  · rw [if_neg hlt] at h
    simp [Flt.isFinite] at h

/-- What QU asks of its bounds (R85): a finite lower one, a span without a sign, and a width the configuration allows. -/
theorem qvalid_cases {c : Cfg} {mn mx : F64} {bits : BitVec 8} (h : qvalid c mn mx bits = true) :
    (∃ neg mag, f64Value mn = .fin neg mag) ∧ (∃ span, fsub (f64Value mx) (f64Value mn) = .fin false span) ∧
    c.bitsMin.toNat ≤ bits.toNat ∧ bits.toNat ≤ c.bitsMax.toNat := by
  simp only [qvalid, Bool.and_eq_true, decide_eq_true_eq] at h
  obtain ⟨⟨⟨⟨⟨⟨hmn, hmx⟩, hlt⟩, hlow⟩, hhigh⟩, hspan⟩, -⟩ := h
  cases hn : f64Value mn with
  | nan => simp [hn, Flt.isFinite] at hmn
  | inf s => simp [hn, Flt.isFinite] at hmn
  | fin na ma =>
    cases hx : f64Value mx with
    | nan => simp [hx, Flt.isFinite] at hmx
    | inf s => simp [hx, Flt.isFinite] at hmx
    | fin nb mb =>
      rw [hn, hx] at hspan hlt
      simp only [Flt.lt, decide_eq_true_eq] at hlt
      refine ⟨⟨na, ma, rfl⟩, roundSum_eq_fin ?_ hspan, hlow, hhigh⟩
      rw [units_neg]
      omega

/-- The widths a valid configuration allows (R85). -/
theorem bits_of_cfgValid {c : Cfg} (h : cfgValid c = true) : 1 ≤ c.bitsMin.toNat ∧ c.bitsMax.toNat ≤ 32 := by
  simp only [cfgValid, Bool.and_eq_true, decide_eq_true_eq] at h
  tauto

theorem codeMax_bounds {bits : BitVec 8} (hlow : 1 ≤ bits.toNat) (hhigh : bits.toNat ≤ 32) :
    0 < codeMax bits ∧ codeMax bits < 2 ^ 53 := by
  have h1 : 2 ^ 1 ≤ 2 ^ bits.toNat := Nat.pow_le_pow_right (by omega) hlow
  have h2 : 2 ^ bits.toNat ≤ 2 ^ 32 := Nat.pow_le_pow_right (by omega) hhigh
  unfold codeMax
  omega

/-! ## QDEC -/

/-- QDEC under valid bounds: finite operands, none of them negative but the lower bound, and a divisor that is not
zero. -/
theorem dequantised_eq {c : Cfg} {mn mx : F64} {bits : BitVec 8} (hc : cfgValid c = true)
    (hq : qvalid c mn mx bits = true) :
    ∃ neg mag span divisor, divisor ≠ 0 ∧ ∀ raw : BitVec 32,
      dequantised raw (f64Value mn) (f64Value mx) bits =
        fadd (fdiv (fmul (.fin false (min (codeMax bits) raw.toNat * unitsPerOne)) (.fin false span))
          (.fin false divisor)) (.fin neg mag) := by
  obtain ⟨hmin, hmax⟩ := bits_of_cfgValid hc
  obtain ⟨⟨neg, mag, hmn⟩, ⟨span, hspan⟩, hlow, hhigh⟩ := qvalid_cases hq
  obtain ⟨hpos, hlt⟩ := codeMax_bounds (hmin.trans hlow) (hhigh.trans hmax)
  refine ⟨neg, mag, span, codeMax bits * unitsPerOne, (Nat.mul_pos hpos unitsPerOne_pos).ne', fun raw => ?_⟩
  have hclamp : (if codeMax bits < raw.toNat then codeMax bits else raw.toNat) = min (codeMax bits) raw.toNat := by
    split_ifs <;> omega
  rw [dequantised, hspan, hmn, hclamp, fltOfNat_eq_fin hlt,
    fltOfNat_eq_fin (lt_of_le_of_lt (Nat.min_le_left _ _) hlt)]

/-- QDEC is monotone in its code (R88): the code, the product, the quotient and the sum each keep the order. -/
theorem dequantised_mono {c : Cfg} {mn mx : F64} {bits : BitVec 8} (hc : cfgValid c = true)
    (hq : qvalid c mn mx bits = true) {raw raw' : BitVec 32} (h : raw.toNat ≤ raw'.toNat) :
    (dequantised raw (f64Value mn) (f64Value mx) bits).le (dequantised raw' (f64Value mn) (f64Value mx) bits) = true := by
  obtain ⟨neg, mag, span, divisor, hdivisor, heq⟩ := dequantised_eq hc hq
  rw [heq, heq]
  refine fadd_fin_mono (fdiv_pos_mono (fmul_fin_mono ?_ span) hdivisor) neg mag
  simp only [Flt.units, Bool.false_eq_true, if_false]
  exact_mod_cast Nat.mul_le_mul_right unitsPerOne (min_le_min_left _ h)

/-- The value QDEC computes is one that binary64 holds, and no NaN. -/
theorem held_dequantised {c : Cfg} {mn mx : F64} {bits : BitVec 8} (hc : cfgValid c = true)
    (hq : qvalid c mn mx bits = true) (raw : BitVec 32) :
    (dequantised raw (f64Value mn) (f64Value mx) bits).held := by
  obtain ⟨neg, mag, span, divisor, hdivisor, heq⟩ := dequantised_eq hc hq
  rw [heq]
  exact held_fadd_fin (Flt.isNaN_of_le (fdiv_pos_mono (fmul_fin_mono le_rfl span) hdivisor)).1 neg mag

/-- What QDEC answers is the value of R88 and no NaN (R91). -/
theorem value_of_qdecValue {c : Cfg} {raw : BitVec 32} {mn mx : F64} {bits : BitVec 8} {x : F64}
    (hc : cfgValid c = true) (h : qdecValue c raw mn mx bits = .ok x) :
    qvalid c mn mx bits = true ∧ f64Value x = dequantised raw (f64Value mn) (f64Value mx) bits ∧
    (f64Value x).isNaN = false := by
  rcases qdecValue_cases c raw mn mx bits with ⟨-, herr⟩ | ⟨hq, hok⟩
  · cases herr.symm.trans h
  · obtain rfl := Except.ok.inj (hok.symm.trans h)
    have hheld := held_dequantised hc hq raw
    rw [f64Value_f64Pattern hheld]
    exact ⟨hq, rfl, hheld.1⟩

/-- Each range of the protocol holds what the least and the greatest code decode to (R88, R152). -/
theorem protocolRanges_hold_ends {mn mx : F64} (h : (mn, mx) ∈ protocolRanges) :
    (f64Value mn).le (dequantised 0#32 (f64Value mn) (f64Value mx) Config.qbits) = true ∧
    (dequantised (BitVec.allOnes 32) (f64Value mn) (f64Value mx) Config.qbits).le (f64Value mx) = true := by
  simp only [protocolRanges, List.mem_cons, List.not_mem_nil, or_false, Prod.mk.injEq] at h
  rcases h with ⟨rfl, rfl⟩ | ⟨rfl, rfl⟩ | ⟨rfl, rfl⟩ | ⟨rfl, rfl⟩ | ⟨rfl, rfl⟩ <;>
    exact ⟨by decide +kernel, by decide +kernel⟩

/-- A protocol quantity decodes into its range (R152), being between what the two extreme codes decode to. -/
theorem inRange_of_qdecValue {c : Cfg} {raw : BitVec 32} {mn mx x : F64} (hc : cfgValid c = true)
    (hrange : (mn, mx) ∈ protocolRanges) (h : qdecValue c raw mn mx Config.qbits = .ok x) :
    inRange x mn mx = true := by
  obtain ⟨hq, hx, -⟩ := value_of_qdecValue hc h
  obtain ⟨hlow, hhigh⟩ := protocolRanges_hold_ends hrange
  rw [inRange, hx, Bool.and_eq_true]
  have hleast : (0#32).toNat ≤ raw.toNat := Nat.zero_le _
  have hgreatest : raw.toNat ≤ (BitVec.allOnes 32).toNat := by
    rw [BitVec.toNat_allOnes]
    exact Nat.le_pred_of_lt raw.isLt
  exact ⟨Flt.le_trans hlow (dequantised_mono hc hq hleast), Flt.le_trans (dequantised_mono hc hq hgreatest) hhigh⟩

end Sys2Proof.Machine
end

section
/-! SUPPORT. Every answer under a valid configuration is of the shapes the spec allows, unit by unit, and so every step
keeps the invariant (spec/10_state.md R15, R17). -/

namespace Sys2Proof.Machine

/-! ## Answers of the allowed shapes -/

/-- An answer whose response the spec allows; a raised status is always one. -/
def answerAllowed (c : Cfg) (a : Except Raise Result) : Prop := responseAllowed c (responseOf a) = true

theorem answerAllowed_ok {c : Cfg} {r : Result} (h : responseAllowed c (.ok r) = true) : answerAllowed c (.ok r) := h

theorem answerAllowed_error (c : Cfg) (e : Raise) : answerAllowed c (.error e) := rfl

theorem answerAllowed_bind {α : Type} {c : Cfg} {a : Except Raise α} {f : α → Except Raise Result}
    (h : ∀ x, a = .ok x → answerAllowed c (f x)) : answerAllowed c (a >>= f) := by
  cases a with
  | ok x => exact h x rfl
  | error e => exact answerAllowed_error c e

/-! ## The frames built -/

/-- A frame of the full length has no byte above it. -/
theorem zeroFrom_eight (B : Buffer) : zeroFrom 8 B = true := by
  simp only [zeroFrom, List.all_eq_true, List.mem_range, Bool.or_eq_true, decide_eq_true_eq]
  exact fun k hk => .inl hk

theorem zeroFrom_keepBelow (B : Buffer) (len : Nat) : zeroFrom len (keepBelow B len) = true := by
  simp only [zeroFrom, List.all_eq_true, List.mem_range, Bool.or_eq_true, decide_eq_true_eq, beq_iff_eq]
  intro k hk
  by_cases hlt : k < len
  · exact .inl hlt
  · right
    interval_cases k <;> simp [getByte, keepBelow, hlt]

@[simp] theorem idOpcode_builtId (w : WireOpcode) (master target : Byte) :
    idOpcode (builtId w master target) = wireCode w := idOpcode_packId _ _ _

@[simp] theorem idHigh_builtId (w : WireOpcode) (master target : Byte) : idHigh (builtId w master target) = 0#8 :=
  idHigh_packId_master _ _ _

@[simp] theorem reservedZero_paramBuffer (c : Cfg) (index : BitVec 16) (v : Quad) :
    reservedZero (paramBuffer c index v) = true := by
  rw [paramBuffer_bytes]
  cases c.pidxTxOrder <;> rfl

theorem enableFrame_allowed (c : Cfg) (master target : Byte) :
    responseAllowed c (.ok (enableFrame master target)) = true := by
  have hzero : zeroFrom 0 zeroBuffer = true := by decide
  simp [responseAllowed, enableFrame, frameAllowed, hzero]

theorem stopFrame_allowed (c : Cfg) (master target : Byte) :
    responseAllowed c (.ok (stopFrame master target)) = true := by
  simp [responseAllowed, stopFrame, frameAllowed, zeroFrom_eight]

theorem setZeroFrame_allowed (c : Cfg) (master target : Byte) :
    responseAllowed c (.ok (setZeroFrame master target)) = true := by
  have hbytes : memWrite zeroBuffer 0 [1#8] = ⟨1, 0, 0, 0, 0, 0, 0, 0⟩ := rfl
  have hzero : zeroFrom 1 ⟨1#8, 0#8, 0#8, 0#8, 0#8, 0#8, 0#8, 0#8⟩ = true := by decide
  simp [responseAllowed, setZeroFrame, frameAllowed, hbytes, hzero]

theorem readFrame_allowed (c : Cfg) (master target : Byte) (index : BitVec 16) :
    responseAllowed c (.ok (readFrame c master target index)) = true := by
  simp [responseAllowed, readFrame, frameAllowed, zeroFrom_eight, readQuad_paramBuffer]

theorem writeFrame_allowed (c : Cfg) (master target : Byte) (index : BitVec 16) (v : Quad) :
    responseAllowed c (.ok (writeFrame c master target index v)) = true := by
  simp [responseAllowed, writeFrame, frameAllowed, zeroFrom_eight]

theorem motionFrame_allowed (c : Cfg) (target : Byte) (tq aq vq pq dq : BitVec 16) :
    responseAllowed c (.ok (motionFrame c target tq aq vq pq dq)) = true := by
  simp [responseAllowed, motionFrame, frameAllowed, zeroFrom_eight]

/-! ## The frames parsed -/

theorem lengthChecked_allowed {c : Cfg} {dlc : BitVec 4} {arm : Except Raise Result}
    (h : dlc.toNat ≤ 8 → answerAllowed c arm) : answerAllowed c (lengthChecked dlc arm) := by
  unfold lengthChecked
  split_ifs with hlong
  · exact answerAllowed_error c _
  · exact h (by omega)

theorem armMotorFeedback_allowed {c : Cfg} (hc : cfgValid c = true) (id : Ident) (dlc : BitVec 4) (B : Buffer) :
    answerAllowed c (armMotorFeedback c id dlc B) := by
  unfold armMotorFeedback
  split_ifs
  · exact answerAllowed_error c _
  refine answerAllowed_bind fun angle ha => answerAllowed_bind fun velocity hv => answerAllowed_bind fun torque ht =>
    answerAllowed_bind fun temperature htemp => answerAllowed_ok ?_
  have hangle := inRange_of_qdecValue hc (by simp [protocolRanges]) ha
  have hvelocity := inRange_of_qdecValue hc (by simp [protocolRanges]) hv
  have htorque := inRange_of_qdecValue hc (by simp [protocolRanges]) ht
  obtain ⟨-, -, hnan⟩ := value_of_qdecValue hc htemp
  simp [responseAllowed, wireCode, hangle, hvelocity, htorque, hnan]

theorem armParameterFeedback_allowed (c : Cfg) (dlc : BitVec 4) (B : Buffer) :
    answerAllowed c (armParameterFeedback c dlc B) := by
  unfold armParameterFeedback
  split_ifs
  · exact answerAllowed_error c _
  · exact answerAllowed_ok rfl

theorem armFault_allowed (c : Cfg) (id : Ident) {dlc : BitVec 4} (h : dlc.toNat ≤ 8) (B : Buffer) :
    answerAllowed c (armFault id dlc B) := by
  apply answerAllowed_ok
  simp [responseAllowed, wireCode, h, zeroFrom_keepBelow]

theorem armUnknown_allowed (c : Cfg) {id : Ident} (h : hasOwnArm (idOpcode id) = false) :
    answerAllowed c (armUnknown id) := by
  apply answerAllowed_ok
  simp [responseAllowed, h]

theorem parseFrame_allowed {c : Cfg} (hc : cfgValid c = true) (id : Ident) (dlc : BitVec 4) (B : Buffer) :
    answerAllowed c (parseFrame c id dlc B) := by
  rcases parseFrame_cases c id dlc B with ⟨-, h⟩ | ⟨hlen, ⟨-, h⟩ | ⟨-, h⟩ | ⟨-, h⟩ | ⟨harm, h⟩⟩ <;> rw [h]
  · exact answerAllowed_error c _
  · exact armMotorFeedback_allowed hc id dlc B
  · exact armParameterFeedback_allowed c dlc B
  · exact armFault_allowed c id hlen B
  · exact armUnknown_allowed c harm

/-! ## Every instruction, every step -/

theorem ptlook_allowed (c : Cfg) (index : BitVec 16) : answerAllowed c (answer c (.ptlook index)) := by
  rcases lookup_cases c.paramTable index with ⟨d, hmem, -, hd⟩ | ⟨-, hn⟩
  · simp only [answer, hd]
    apply answerAllowed_ok
    simp only [responseAllowed, List.any_eq_true, Bool.and_eq_true, decide_eq_true_eq]
    exact ⟨d, hmem, rfl, rfl⟩
  · simp only [answer, hn]
    exact answerAllowed_error c _

/-- Under a valid configuration every well-formed instruction answers within the shapes the spec allows. -/
theorem answer_allowed {c : Cfg} (hc : cfgValid c = true) {i : Instr} (hw : wellFormed i = true) :
    answerAllowed c (answer c i) := by
  cases i with
  | qenc | qencs => exact answerAllowed_bind fun _ _ => answerAllowed_ok rfl
  | qdec raw mn mx bits =>
    refine answerAllowed_bind fun x hx => answerAllowed_ok ?_
    obtain ⟨-, -, hnan⟩ := value_of_qdecValue hc hx
    simp [responseAllowed, hnan]
  | idpack | idunpkReq | idunpkFb | wireGetDeviceId | wireSetMotorCanId | wireParamTableWrite =>
    exact answerAllowed_ok rfl
  | ptlook index => exact ptlook_allowed c index
  | fbEnable target master | wireMotorEnable master target => exact enableFrame_allowed c master target
  | fbDisable target master | wireMotorStop master target => exact stopFrame_allowed c master target
  | fbSetzero target master | wireSetMechanicalZero master target => exact setZeroFrame_allowed c master target
  | fbWrparam target master index => exact answerAllowed_bind fun _ _ => writeFrame_allowed c master target index _
  | fbRdparam target master index | wireSingleParamRead master target index =>
    exact readFrame_allowed c master target index
  | fbMotion target =>
    exact answerAllowed_bind fun _ _ => answerAllowed_bind fun _ _ => answerAllowed_bind fun _ _ =>
      answerAllowed_bind fun _ _ => answerAllowed_bind fun _ _ => motionFrame_allowed c target _ _ _ _ _
  | fpParse id dlc B => exact parseFrame_allowed hc id dlc B
  | reservedOp14 | reservedOp15 => exact answerAllowed_error c _
  | fpMotorFeedback id dlc B => exact lengthChecked_allowed fun _ => armMotorFeedback_allowed hc id dlc B
  | fpParameterFeedback id dlc B => exact lengthChecked_allowed fun _ => armParameterFeedback_allowed c dlc B
  | fpFault id dlc B => exact lengthChecked_allowed fun hlen => armFault_allowed c id hlen B
  | fpUnknown id dlc B =>
    exact lengthChecked_allowed fun _ => armUnknown_allowed c (by simpa [wellFormed] using hw)
  | wireMotorControl data16 target aq vq pq dq => exact motionFrame_allowed c target data16 aq vq pq dq
  | wireSingleParamWrite master target index v => exact writeFrame_allowed c master target index v

theorem stateAllowed_afterInstr (s : State) (rest : List Request) (i : Instr) :
    stateAllowed (s.afterInstr rest i) = (cfgValid s.cfg && responseAllowed s.cfg (responseOf (answer s.cfg i))) := rfl

theorem cfgValid_of_stateAllowed {s : State} (h : stateAllowed s = true) : cfgValid s.cfg = true :=
  (Bool.and_eq_true_iff.mp h).1

/-- Settles O12: an idle step changes nothing, and the instruction a request decodes to is well formed and answers within
the allowed shapes. -/
theorem stepKeepsAllowed : Obligations.StepKeepsAllowed := by
  intro s t hs hstep
  rcases step_cases s with ⟨-, hidle⟩ | ⟨r, rest, i, -, hd, hrun⟩ | ⟨id, B, rest, -, -, hrefused⟩
  · obtain rfl := Host.Outcome.next.inj (hidle.symm.trans hstep)
    exact hs
  · obtain rfl := Host.Outcome.next.inj (hrun.symm.trans hstep)
    have hc := cfgValid_of_stateAllowed hs
    rw [stateAllowed_afterInstr, hc, Bool.true_and]
    exact answer_allowed hc (wellFormed_of_decode hd)
  · cases hrefused.symm.trans hstep

end Sys2Proof.Machine
end

section
/-! SUPPORT. The statements about the state, the requests and the step (spec/10_state.md). -/

namespace Sys2Proof.Machine

/-- Settles O1: the three kinds of request, each read back by its own part of the decoder. -/
theorem decodeEncodeAgree : Obligations.DecodeEncodeAgree := decode_encode

/-- Settles O5: the two requests decode to one instruction, operation by operation. -/
theorem unnamedPortsIgnored : Obligations.UnnamedPortsIgnored := by
  intro s rest p q hop h0 h1 h2 h3 h4 h5 h6 h7 h8 h9 h10 h11 h12 h13
  apply step_congr_of_decode
  suffices h : decodeOp p = decodeOp q by simp only [decode, h]
  rcases op_cases p.op with hp | hp | hp | hp | hp | hp | hp | hp | hp | hp | hp | hp | hp | hp | hp | hp <;>
    have hq := hop.symm.trans hp
  · simp [decodeOp, hp, hq, h0 hp]
  · simp [decodeOp, hp, hq, h1 hp]
  · simp [decodeOp, hp, hq, h2 hp]
  · simp [decodeOp, hp, hq, h3 hp]
  · simp [decodeOp, hp, hq, h4 hp]
  · simp [decodeOp, hp, hq, h5 hp]
  · simp [decodeOp, hp, hq, h6 hp]
  · simp [decodeOp, hp, hq, h7 hp]
  · simp [decodeOp, hp, hq, h8 hp]
  · simp [decodeOp, hp, hq, h9 hp]
  · obtain ⟨ht, hm, hi, hf, hb, hv, hbounds⟩ := h10 hp
    rw [hb] at hbounds
    simp [decodeOp, hp, hq, ht, hm, hi, hf, hb, hv, boundsOf_congr hbounds]
  · simp [decodeOp, hp, hq, h11 hp]
  · simp [decodeOp, hp, hq, h12 hp]
  · simp [decodeOp, hp, hq, h13 hp]
  · simp [decodeOp, hp, hq]
  · simp [decodeOp, hp, hq]

/-- Settles O6. -/
theorem stepRunsDecodedInstruction : Obligations.StepRunsDecodedInstruction :=
  fun _ _ _ _ h hd => step_of_decode_ok h hd

/-- Settles O7: of the three things a step can do, the refusal is exactly that of an outbound frame of no row. -/
theorem stepStopsOnlyOnUnlistedFrame : Obligations.StepStopsOnlyOnUnlistedFrame := by
  intro s
  refine ⟨step_of_no_request, fun id B rest h hfits => ?_, fun hlisted => ?_⟩
  · rw [forall_reqRows_rowFits_false_iff, ← decodeOutbound_error_iff s.cfg id B] at hfits
    exact step_of_decode_error h hfits
  · rcases step_cases s with ⟨-, hstep⟩ | ⟨r, rest, i, -, -, hstep⟩ | ⟨id, B, rest, h, hd, -⟩
    · exact ⟨_, hstep⟩
    · exact ⟨_, hstep⟩
    · rw [decodeOutbound_error_iff, ← forall_reqRows_rowFits_false_iff] at hd
      exact absurd ⟨id, B, rest, h, hd⟩ hlisted

/-- Settles O8. -/
theorem everyInstructionOnlyResponds : Obligations.EveryInstructionOnlyResponds :=
  fun i s => ⟨_, exec_eq_respond i s⟩

/-- A step that takes a request answers a next state only by running the instruction it decodes to. -/
theorem eq_afterInstr_of_step {s t : State} {r : Request} {rest : List Request} (h : s.requests = r :: rest)
    (hstep : step s = .next t) : ∃ i, decode s.cfg r = .ok i ∧ t = s.afterInstr rest i := by
  rcases step_cases s with ⟨hnil, -⟩ | ⟨r', rest', i, hcons, hd, hnext⟩ | ⟨id, B, rest', -, -, hrefused⟩
  · simp [hnil] at h
  · obtain ⟨rfl, rfl⟩ := List.cons.inj (hcons.symm.trans h)
    exact ⟨i, hd, Host.Outcome.next.inj (hstep.symm.trans hnext)⟩
  · cases hrefused.symm.trans hstep

/-- Settles O9: both states run the same instruction, whose answer is a function of the configuration. -/
theorem responseIsAFunctionOfRequest : Obligations.ResponseIsAFunctionOfRequest := by
  intro s s' t t' r rest rest' h h' hcfg hstep hstep'
  obtain ⟨i, hd, rfl⟩ := eq_afterInstr_of_step h hstep
  obtain ⟨i', hd', rfl⟩ := eq_afterInstr_of_step h' hstep'
  obtain rfl : i = i' := Except.ok.inj (hd.symm.trans (hcfg ▸ hd'))
  simp [hcfg]

/-- Settles O10. -/
theorem resetState : Obligations.ResetState := by
  unfold Obligations.ResetState
  decide

/-- Settles O11: the default configuration is valid, and there is no response yet. -/
theorem resetIsAllowed : Obligations.ResetIsAllowed := by
  have hcfg : cfgValid State.reset.cfg = true := by decide +kernel
  simp only [Obligations.ResetIsAllowed, stateAllowed, hcfg, reset_resp, Bool.and_true]

end Sys2Proof.Machine
end

section
/-! SUPPORT. The statements about the payload memory (spec/20_memory.md). -/

namespace Sys2Proof.Machine

/-! ## The two bytes of an index -/

theorem toNat_append_bytes (hi lo : Byte) : (hi ++ lo).toNat = hi.toNat * 256 + lo.toNat := by
  rw [BitVec.toNat_append, ← Nat.shiftLeft_add_eq_or_of_lt lo.isLt, Nat.shiftLeft_eq]

theorem exists_eq_append_bytes (v : BitVec 16) : ∃ hi lo : Byte, v = hi ++ lo := by
  refine ⟨BitVec.ofNat 8 (v.toNat / 256), BitVec.ofNat 8 v.toNat, BitVec.eq_of_toNat_eq ?_⟩
  rw [toNat_append_bytes, BitVec.toNat_ofNat, BitVec.toNat_ofNat]
  omega

theorem toLe_append_bytes (hi lo : Byte) : toLe (hi ++ lo).toNat 2 = [lo, hi] := by
  have hlow : BitVec.ofNat 8 (hi.toNat * 256 + lo.toNat) = lo := by
    apply BitVec.eq_of_toNat_eq
    rw [BitVec.toNat_ofNat]
    omega
  have hhigh : BitVec.ofNat 8 ((hi.toNat * 256 + lo.toNat) / 256) = hi := by
    apply BitVec.eq_of_toNat_eq
    rw [BitVec.toNat_ofNat]
    omega
  rw [toNat_append_bytes, toLe, toLe, toLe, hlow, hhigh]

theorem toBe_append_bytes (hi lo : Byte) : toBe (hi ++ lo).toNat 2 = [hi, lo] := by
  rw [toBe, toLe_append_bytes]
  rfl

/-- Listing a number's bytes in one order is listing the exchanged bytes in the other. -/
theorem toOrd_append_bytes_swap {o o' : Order} (h : o ≠ o') (hi lo : Byte) :
    toOrd o (hi ++ lo).toNat 2 = toOrd o' (lo ++ hi).toNat 2 := by
  cases o <;> cases o'
  case little.big => exact (toLe_append_bytes hi lo).trans (toBe_append_bytes lo hi).symm
  case big.little => exact (toBe_append_bytes hi lo).trans (toLe_append_bytes lo hi).symm
  case little.little | big.big => exact absurd rfl h

/-! ## The parameter payload read in the receive order (R37) -/

theorem memRead_paramBuffer (c : Cfg) (index : BitVec 16) (v : Quad) :
    memRead (paramBuffer c index v) 0 2 = toOrd c.pidxTxOrder index.toNat 2 := by
  rw [paramBuffer_bytes, toOrd_two]
  cases c.pidxTxOrder <;> rfl

theorem readU16_pidxRxOrder_paramBuffer (c : Cfg) (hi lo : Byte) (v : Quad) :
    readU16 c.pidxRxOrder (paramBuffer c (hi ++ lo) v) 0 =
      if c.pidxTxOrder = c.pidxRxOrder then hi ++ lo else lo ++ hi := by
  split_ifs with h
  · rw [← h]
    exact readU16_paramBuffer c (hi ++ lo) v
  · exact readU16_pair _ _ _ _ ((memRead_paramBuffer c (hi ++ lo) v).trans (toOrd_append_bytes_swap h hi lo))

/-- A frame of wire opcode 17 with eight bytes is parsed to its index and its value field (R153). -/
theorem parseFrame_parameterFeedback (c : Cfg) {id : Ident} (hid : idOpcode id = 17#5) (B : Buffer) :
    parseFrame c id 8#4 B = .ok (.parameterFeedback 17#5 (readU16 c.pidxRxOrder B 0) (readQuad B)) := by
  rcases parseFrame_cases c id 8#4 B with ⟨hlong, -⟩ | ⟨-, ⟨h, -⟩ | ⟨-, h⟩ | ⟨h, -⟩ | ⟨h, -⟩⟩
  · exact absurd hlong (by decide)
  · simp [hid] at h
  · exact h
  · simp [hid] at h
  · simp [hid, hasOwnArm] at h

/-- Settles O57: the payload keeps the index bytes in the transmit order, and the parser takes them in the receive
order, which exchanges them where the two differ. -/
theorem echoedIndexSwaps : Obligations.EchoedIndexSwaps := by
  intro s target master index
  obtain ⟨hi, lo, rfl⟩ := exists_eq_append_bytes index
  refine ⟨builtId .singleParamRead master target, paramBuffer s.cfg (hi ++ lo) ⟨0, 0, 0, 0⟩, lo, hi,
    ⟨0, 0, 0, 0⟩, ?_, rfl, ?_⟩
  · exact exec_eq_respond (.fbRdparam target master (hi ++ lo)) s
  · rw [exec_eq_respond, answer, parseFrame_parameterFeedback s.cfg (idOpcode_builtId ..),
      readU16_pidxRxOrder_paramBuffer, readQuad_paramBuffer]
    rfl

end Sys2Proof.Machine
end

section
/-! SUPPORT. Laws of the encodings: the row of the table an inbound or an outbound frame is (spec/30_encoding.md R64),
identifiers as numbers (R51, R59), and the fields of the built payloads (R54, R55). -/

namespace Sys2Proof.Machine

open Sys2Proof.Laws

/-! ## Inbound frames -/

/-- The arm an inbound frame selects keeps the frame whole. -/
theorem encode_decodeInbound (c : Cfg) (id : Ident) (dlc : BitVec 4) (B : Buffer) :
    encode c (decodeInbound id dlc B) = .inbound id dlc B := by
  unfold decodeInbound
  split_ifs <;> rfl

theorem rowMatch_decodeInbound (id : Ident) (dlc : BitVec 4) (B : Buffer) :
    RowMatch.Statement (decodeInbound id dlc B) := by
  unfold decodeInbound
  split_ifs
  · exact RowMatch.fpMotorFeedback id dlc B
  · exact RowMatch.fpParameterFeedback id dlc B
  · exact RowMatch.fpFault id dlc B
  · exact RowMatch.fpUnknown id dlc B

/-! ## Outbound frames -/

theorem idOpcode_and (a b : Ident) : idOpcode (a &&& b) = idOpcode a &&& idOpcode b := BitVec.extractLsb'_and

/-- Every `REQ` row asks for one wire opcode: the masks hold its five bits (R64). -/
theorem idOpcode_of_rowFits {row : TableRow} (hrow : row ∈ reqRows) {id : Ident} (h : rowFits row id = true) :
    idOpcode id = idOpcode row.pattern := by
  have hmasks : ∀ r ∈ reqRows, idOpcode r.mask = BitVec.allOnes 5 := by decide
  rw [rowFits, beq_iff_eq] at h
  rw [← h, idOpcode_and, hmasks row hrow, BitVec.and_allOnes]

/-- The `REQ` rows have nine different wire opcodes, so an identifier fits at most one. -/
theorem reqRow_unique {row other : TableRow} (hrow : row ∈ reqRows) (hother : other ∈ reqRows) {id : Ident}
    (h : rowFits row id = true) (h' : rowFits other id = true) : other = row := by
  have hopcodes : ∀ a ∈ reqRows, ∀ b ∈ reqRows, idOpcode b.pattern = idOpcode a.pattern → b = a := by decide
  exact hopcodes row hrow other hother ((idOpcode_of_rowFits hother h').symm.trans (idOpcode_of_rowFits hrow h))

/-- The row that fits is the first row that does. -/
theorem firstRow_outbound_of_rowFits {row : TableRow} (hrow : row ∈ reqRows) {id : Ident} (h : rowFits row id = true)
    (B : Buffer) : firstRow (.outbound id B) = some row := by
  rw [RowMatch.firstRow_outbound]
  rcases hfind : reqRows.find? fun r => rowFits r id with _ | other
  · exact absurd h (List.find?_eq_none.mp hfind row hrow)
  · have hother : rowFits other id = true := List.find?_some (p := fun r => rowFits r id) hfind
    rw [reqRow_unique hrow (List.mem_of_find?_eq_some hfind) h hother]

theorem packId_of_idOpcode {id : Ident} {o : BitVec 5} (h : idOpcode id = o) :
    packId o (idData16 id) (idLow id) = id := by
  rw [← h, packId_fields]

theorem idHigh_toNat (id : Ident) : (idHigh id).toNat = id.toNat / 2 ^ 16 % 2 ^ 8 := by
  rw [idHigh, BitVec.extractLsb'_toNat, Nat.shiftRight_eq_div_pow]

/-- `data16` is the master id, zero-extended, where identifier bits 23 to 16 are zero (R59 (a)). -/
theorem masterData16_idMid {id : Ident} (h : idHigh id = 0#8) : masterData16 (idMid id) = idData16 id := by
  have hhigh : id.toNat / 2 ^ 16 % 2 ^ 8 = 0 := by rw [← idHigh_toNat, h, BitVec.toNat_zero]
  apply BitVec.eq_of_toNat_eq
  rw [masterData16_toNat, idMid_toNat, idData16_toNat]
  omega

theorem packId_master_of_idHigh {id : Ident} {o : BitVec 5} (ho : idOpcode id = o) (hh : idHigh id = 0#8) :
    packId o (masterData16 (idMid id)) (idLow id) = id := by
  rw [masterData16_idMid hh, packId_of_idOpcode ho]

/-- What the decoder reads from an outbound frame is encoded to a frame with the same identifier. -/
theorem encode_of_decodeOutbound {c : Cfg} {id : Ident} {B : Buffer} {i : Instr} (h : decodeOutbound c id B = .ok i) :
    ∃ P, encode c i = .outbound id P := by
  have keeps {k P} (hk : k = id) : ∃ Q, Request.outbound k P = .outbound id Q := ⟨P, by rw [hk]⟩
  unfold decodeOutbound at h
  split_ifs at h with h1 h0 h7 h8 hh h3 h4 h6 h17 h18 <;> cases h
  · exact keeps (packId_of_idOpcode h1)
  · exact keeps (packId_of_idOpcode h0)
  · exact keeps (packId_of_idOpcode h7)
  · exact keeps (packId_of_idOpcode h8)
  · exact keeps (packId_master_of_idHigh h3 (not_not.mp hh))
  · exact keeps (packId_master_of_idHigh h4 (not_not.mp hh))
  · exact keeps (packId_master_of_idHigh h6 (not_not.mp hh))
  · exact keeps (packId_master_of_idHigh h17 (not_not.mp hh))
  · exact keeps (packId_master_of_idHigh h18 (not_not.mp hh))

theorem rowMatch_of_decodeOutbound {c : Cfg} {id : Ident} {B : Buffer} {i : Instr} (h : decodeOutbound c id B = .ok i) :
    RowMatch.Statement i := by
  unfold decodeOutbound at h
  split_ifs at h <;> cases h
  · exact RowMatch.wireMotorControl _ _ _ _ _ _
  · exact RowMatch.wireGetDeviceId _ _
  · exact RowMatch.wireSetMotorCanId _ _
  · exact RowMatch.wireParamTableWrite _ _
  · exact RowMatch.wireMotorEnable _ _
  · exact RowMatch.wireMotorStop _ _
  · exact RowMatch.wireSetMechanicalZero _ _
  · exact RowMatch.wireSingleParamRead _ _ _
  · exact RowMatch.wireSingleParamWrite _ _ _ _

/-- A frame that fits a `REQ` row is an instruction. -/
theorem decodeOutbound_of_rowFits {row : TableRow} (hrow : row ∈ reqRows) {id : Ident} (h : rowFits row id = true)
    (c : Cfg) (B : Buffer) : ∃ i, decodeOutbound c id B = .ok i := by
  rcases hd : decodeOutbound c id B with e | i
  · obtain rfl := decodeOutbound_error c id B e hd
    rw [decodeOutbound_error_iff, ← forall_reqRows_rowFits_false_iff] at hd
    exact absurd h (by simp [hd row hrow])
  · exact ⟨i, rfl⟩

/-! ## Identifiers as numbers -/

theorem builtId_toNat (w : WireOpcode) (master target : Byte) :
    (builtId w master target).toNat = (wireCode w).toNat * 2 ^ 24 + master.toNat * 2 ^ 8 + target.toNat := by
  rw [builtId, packId_toNat, masterData16_toNat]

/-! ## The fields of the built payloads -/

/-- Two bytes are a number of sixteen bits in either order. -/
theorem toNat_readU16 (o : Order) (B : Buffer) (off : Nat) : (readU16 o B off).toNat = ord o (memRead B off 2) := by
  have hfirst := (getByte B off).isLt
  have hsecond := (getByte B (off + 1)).isLt
  rw [readU16, BitVec.toNat_ofNat]
  apply Nat.mod_eq_of_lt
  cases o <;> simp [ord, be, le, memRead] <;> omega

/-- The index of the payload `PARAM`, in its byte order (R54). -/
theorem ord_paramBuffer (c : Cfg) (index : BitVec 16) (v : Quad) :
    ord c.pidxTxOrder [(paramBuffer c index v).b0, (paramBuffer c index v).b1] = index.toNat :=
  (toNat_readU16 _ _ 0).symm.trans (congrArg BitVec.toNat (readU16_paramBuffer c index v))

/-- The reserved bytes of the payload `PARAM` and its value field (R54). -/
theorem paramBuffer_tail (c : Cfg) (index : BitVec 16) (v : Quad) :
    (paramBuffer c index v).b2 = 0 ∧ (paramBuffer c index v).b3 = 0 ∧ (paramBuffer c index v).b4 = v.v0 ∧
    (paramBuffer c index v).b5 = v.v1 ∧ (paramBuffer c index v).b6 = v.v2 ∧ (paramBuffer c index v).b7 = v.v3 := by
  rw [paramBuffer_bytes]
  cases c.pidxTxOrder <;> exact ⟨rfl, rfl, rfl, rfl, rfl, rfl⟩

/-- The four fields of the payload `MOTION`, in their byte order (R55). -/
theorem ord_motionBuffer (c : Cfg) (a v p d : BitVec 16) :
    ord c.mcOrder [(motionBuffer c a v p d).b0, (motionBuffer c a v p d).b1] = a.toNat ∧
    ord c.mcOrder [(motionBuffer c a v p d).b2, (motionBuffer c a v p d).b3] = v.toNat ∧
    ord c.mcOrder [(motionBuffer c a v p d).b4, (motionBuffer c a v p d).b5] = p.toNat ∧
    ord c.mcOrder [(motionBuffer c a v p d).b6, (motionBuffer c a v p d).b7] = d.toNat := by
  obtain ⟨ha, hv, hp, hd⟩ := readU16_motionBuffer c a v p d
  exact ⟨(toNat_readU16 _ _ 0).symm.trans (congrArg BitVec.toNat ha),
    (toNat_readU16 _ _ 2).symm.trans (congrArg BitVec.toNat hv),
    (toNat_readU16 _ _ 4).symm.trans (congrArg BitVec.toNat hp),
    (toNat_readU16 _ _ 6).symm.trans (congrArg BitVec.toNat hd)⟩

end Sys2Proof.Machine
end

section
/-! SUPPORT. The statements about the encodings (spec/30_encoding.md). -/

namespace Sys2Proof.Machine

/-- Settles O3: the arm selected keeps the frame, whose first row is then the arm's own. -/
theorem inboundIsFirstRow : Obligations.InboundIsFirstRow := by
  intro c id dlc B
  have hkept := encode_decodeInbound c id dlc B
  have hwf : wellFormed (decodeInbound id dlc B) = true := wellFormed_of_decode (c := c) (r := .inbound id dlc B) rfl
  refine ⟨decodeInbound id dlc B, rfl, hwf, hkept, ?_⟩
  have hrow := rowMatch_decodeInbound id dlc B hwf c
  rwa [hkept] at hrow

/-- Settles O4: the wire opcode tells the rows apart, and the instruction decoded keeps the identifier, so that the row
of its encoding is the row of the frame. -/
theorem outboundIsItsRow : Obligations.OutboundIsItsRow := by
  intro c id B
  refine ⟨fun row hrow hfits => ⟨fun other hother hfits' => reqRow_unique hrow hother hfits hfits', ?_⟩,
    fun hnone => ?_⟩
  · obtain ⟨i, hd⟩ := decodeOutbound_of_rowFits hrow hfits c B
    obtain ⟨P, hP⟩ := encode_of_decodeOutbound hd
    have hwf : wellFormed i = true := wellFormed_of_decode (r := .outbound id B) hd
    have hmnemonic := rowMatch_of_decodeOutbound hd hwf c
    rw [hP, firstRow_outbound_of_rowFits hrow hfits] at hmnemonic
    exact ⟨i, P, hd, (Option.some.inj hmnemonic).symm, hP⟩
  · exact (decodeOutbound_error_iff c id B).mpr ((forall_reqRows_rowFits_false_iff id).mp hnone)

/-- Settles O50: each row answers its builder's frame, whose identifier and payload have their fields at their
places. -/
theorem wireFramesAssemble : Obligations.WireFramesAssemble := by
  refine ⟨fun s master target => ⟨rfl, rfl, rfl, ?_⟩, fun s master target index => ?_,
    fun s master target index v => ?_, fun s data16 target aq vq pq dq => ?_⟩
  · exact ⟨⟨_, rfl, builtId_toNat .motorEnable master target⟩, ⟨_, rfl, builtId_toNat .motorStop master target⟩,
      ⟨_, rfl, builtId_toNat .setMechanicalZero master target⟩⟩
  · exact ⟨_, paramBuffer s.cfg index ⟨0, 0, 0, 0⟩, rfl, builtId_toNat .singleParamRead master target,
      ord_paramBuffer s.cfg index _, paramBuffer_tail s.cfg index _⟩
  · exact ⟨_, paramBuffer s.cfg index v, rfl, builtId_toNat .singleParamWrite master target,
      ord_paramBuffer s.cfg index v, paramBuffer_tail s.cfg index v⟩
  · exact ⟨_, motionBuffer s.cfg aq vq pq dq, rfl, packId_toNat (wireCode .motorControl) data16 target,
      ord_motionBuffer s.cfg aq vq pq dq⟩

/-- Settles O2, by running the decoder on the five requests. -/
theorem handWrittenWordsDecode : Obligations.HandWrittenWordsDecode := by
  unfold Obligations.HandWrittenWordsDecode
  decide

/-- Settles O51: the identifier is IDPACK's, of the row's wire opcode. -/
theorem wireBareIdentifiers : Obligations.WireBareIdentifiers := by
  intro s data16 target
  refine ⟨⟨_, rfl, ?_⟩, ⟨_, rfl, packId_toNat (wireCode .setMotorCanId) data16 target⟩,
    ⟨_, rfl, packId_toNat (wireCode .paramTableWrite) data16 target⟩⟩
  have hid := packId_toNat (wireCode .getDeviceId) data16 target
  rwa [wireCode, BitVec.toNat_zero, Nat.zero_mul, Nat.zero_add] at hid

end Sys2Proof.Machine
end

section
/-! SUPPORT. Every binary64 pattern but a NaN's is the pattern of its value, and `round_tie` is the nearest integer
(spec/40_quantization.md R81, R84). -/

namespace Sys2Proof.Machine

/-! ## Patterns read back -/

theorem binadeShift_of_lt {q : Nat} (h : q < 2 ^ 53) : binadeShift q = 0 := by
  obtain ⟨-, hleast⟩ := binadeShift_spec q
  by_contra hk
  have hpow : 2 ^ 53 ≤ 2 ^ (52 + binadeShift q) := Nat.pow_le_pow_right (by omega) (by omega)
  exact absurd h (Nat.not_lt.mpr (hpow.trans (hleast (Nat.pos_of_ne_zero hk))))

/-- The shift of a 53-bit significand whose top bit is set is read back from the value. -/
theorem binadeShift_normal {sig k : Nat} (hlow : 2 ^ 52 ≤ sig) (hhigh : sig < 2 ^ 53) :
    binadeShift (sig * 2 ^ k) = k := by
  have hpos : 0 < 2 ^ k := by positivity
  have hlog : Nat.log2 (sig * 2 ^ k) = 52 + k := by
    rw [Nat.log2_eq_iff (Nat.mul_pos (by omega) hpos).ne']
    constructor
    · rw [Nat.pow_add]
      exact Nat.mul_le_mul_right _ hlow
    · rw [show 52 + k + 1 = 53 + k by omega, Nat.pow_add]
      exact Nat.mul_lt_mul_of_pos_right hhigh hpos
  rw [binadeShift, hlog, Nat.add_sub_cancel_left]

/-- A pattern is its sign bit and the 63 bits below it. -/
theorem exists_eq_sign_append (x : F64) : ∃ (neg : Bool) (w : BitVec 63), x = BitVec.ofBool neg ++ w := by
  have hx := x.isLt
  refine ⟨decide (2 ^ 63 ≤ x.toNat), BitVec.ofNat 63 x.toNat, BitVec.eq_of_toNat_eq ?_⟩
  rw [toNat_signed, BitVec.toNat_ofNat, BitVec.toNat_ofBool]
  by_cases hneg : 2 ^ 63 ≤ x.toNat
  · rw [decide_eq_true hneg, Bool.toNat_true]
    omega
  · rw [decide_eq_false hneg, Bool.toNat_false]
    omega

theorem f64Pattern_fin_eq (neg : Bool) {mag : Nat} {w : BitVec 63}
    (h : binadeShift mag * 2 ^ 52 + mag / 2 ^ binadeShift mag = w.toNat) :
    f64Pattern (.fin neg mag) = BitVec.ofBool neg ++ w := by
  rw [f64Pattern, h, BitVec.ofNat_toNat, BitVec.setWidth_eq]

/-- The exponent field tells the infinities, the subnormals and the normal values apart, and each keeps its fraction
field. -/
theorem f64Pattern_f64Value {x : F64} (h : (f64Value x).isNaN = false) : f64Pattern (f64Value x) = x := by
  obtain ⟨neg, w, rfl⟩ := exists_eq_sign_append x
  rw [f64Value_append] at h ⊢
  split_ifs at h ⊢ with hinf hfrac hsub
  · have hw : w = 0x7FF0000000000000#63 := BitVec.eq_of_toNat_eq (by rw [BitVec.toNat_ofNat]; omega)
    rw [f64Pattern, hw]
  · simp [Flt.isNaN] at h
  · apply f64Pattern_fin_eq
    rw [binadeShift_of_lt (by omega)]
    omega
  · apply f64Pattern_fin_eq
    rw [binadeShift_normal (by omega) (by omega), Nat.mul_div_cancel _ (by positivity)]
    omega

/-- Settles O17. -/
theorem patternsAndValuesAgree : Obligations.PatternsAndValuesAgree :=
  ⟨fun _ => f64Pattern_f64Value, fun _ _ => f64Value_f64Pattern_fin, f64Value_f64Pattern_inf⟩

/-! ## `round_tie` -/

@[simp] theorem roundTie_fin (rule : Tie) (neg : Bool) (mag : Nat) :
    roundTie rule (.fin neg mag) = roundTieUnits rule mag := rfl

/-- `round_tie` is at most one half away. -/
theorem roundTieUnits_error (rule : Tie) (mag : Nat) :
    2 * mag ≤ 2 * (roundTieUnits rule mag * unitsPerOne) + unitsPerOne ∧
    2 * (roundTieUnits rule mag * unitsPerOne) ≤ 2 * mag + unitsPerOne := by
  have hdiv := Nat.div_add_mod mag unitsPerOne
  have hmod := Nat.mod_lt mag unitsPerOne_pos
  rw [Nat.mul_comm] at hdiv
  have hnext : (mag / unitsPerOne + 1) * unitsPerOne = mag / unitsPerOne * unitsPerOne + unitsPerOne := by ring
  unfold roundTieUnits
  dsimp only
  by_cases hlow : 2 * (mag % unitsPerOne) < unitsPerOne
  · rw [if_pos hlow]
    omega
  rw [if_neg hlow]
  by_cases hhigh : unitsPerOne < 2 * (mag % unitsPerOne)
  · rw [if_pos hhigh]
    omega
  rw [if_neg hhigh]
  cases rule with
  | halfAwayFromZero => dsimp only; omega
  | halfToEven => dsimp only; split_ifs <;> omega

/-- The integer less than one half away is the only one within one half. -/
theorem roundTieUnits_of_near (rule : Tie) {mag n : Nat}
    (h : 2 * ((mag : Int) - n * unitsPerOne).natAbs < unitsPerOne) : roundTieUnits rule mag = n := by
  obtain ⟨hlow, hhigh⟩ := roundTieUnits_error rule mag
  rw [← Int.natCast_mul] at h
  generalize roundTieUnits rule mag = q at *
  have hn : n < q + 1 := by
    refine Nat.lt_of_mul_lt_mul_right (a := unitsPerOne) ?_
    rw [Nat.add_mul, Nat.one_mul]
    omega
  have hq : q < n + 1 := by
    refine Nat.lt_of_mul_lt_mul_right (a := unitsPerOne) ?_
    rw [Nat.add_mul, Nat.one_mul]
    omega
  omega

/-- A half goes as the tie rule says. -/
theorem roundTieUnits_half {mag k : Nat} (h : 2 * mag = (2 * k + 1) * unitsPerOne) :
    roundTieUnits .halfAwayFromZero mag = k + 1 ∧
    roundTieUnits .halfToEven mag = if k % 2 = 0 then k else k + 1 := by
  have hpos := unitsPerOne_pos
  have hsum : (2 * k + 1) * unitsPerOne = 2 * (k * unitsPerOne) + unitsPerOne := by ring
  have hq : mag / unitsPerOne = k := by
    refine Nat.div_eq_of_lt_le (by omega) ?_
    rw [Nat.add_mul, Nat.one_mul]
    omega
  have hdiv := Nat.div_add_mod mag unitsPerOne
  rw [hq, Nat.mul_comm] at hdiv
  have hlow : ¬2 * (mag % unitsPerOne) < unitsPerOne := by omega
  have hhigh : ¬unitsPerOne < 2 * (mag % unitsPerOne) := by omega
  simp only [roundTieUnits, hq, if_neg hlow, if_neg hhigh, and_self]

theorem roundTieUnits_mono (rule : Tie) {mag mag' : Nat} (h : mag ≤ mag') :
    roundTieUnits rule mag ≤ roundTieUnits rule mag' := by
  obtain ⟨-, hhigh⟩ := roundTieUnits_error rule mag
  obtain ⟨hlow, -⟩ := roundTieUnits_error rule mag'
  by_contra hlt
  have hnext := Nat.mul_le_mul_right unitsPerOne (Nat.succ_le_of_lt (Nat.not_le.mp hlt))
  rw [Nat.succ_mul] at hnext
  obtain rfl : mag = mag' := by omega
  exact hlt le_rfl

end Sys2Proof.Machine
end

section
/-! SUPPORT. The quotient of QENC and the value of QDEC as whole numbers of units, and how far their roundings take them
from the exact linear map, in rational numbers (spec/40_quantization.md R82, R86, R88, R89). -/

namespace Sys2Proof.Machine

/-! ## The error of one rounding -/

/-- An error bound scaled by a factor that is not negative. -/
theorem abs_mul_le_mul {a b c : ℚ} (h : |a| ≤ b) (hc : 0 ≤ c) : |a * c| ≤ b * c := by
  rw [abs_mul, abs_of_nonneg hc]
  exact mul_le_mul_of_nonneg_right h hc

/-- A rounding is off by at most one part in `2^53`, or by half a unit among the least values. -/
theorem abs_roundUnits_mul_sub_le (n : Nat) {d : Nat} (hd : 0 < d) :
    |(roundUnits n d * d : ℚ) - n| ≤ n / 2 ^ 53 + d / 2 := by
  obtain ⟨hlow, hhigh, hspacing⟩ := roundUnits_error n d hd
  have hlow' : 2 * (n : ℚ) ≤ 2 * (roundUnits n d * d) + d * 2 ^ binadeShift (n / d) := by exact_mod_cast hlow
  have hhigh' : 2 * (roundUnits n d * d : ℚ) ≤ 2 * n + d * 2 ^ binadeShift (n / d) := by exact_mod_cast hhigh
  have hgap : (d * 2 ^ binadeShift (n / d) : ℚ) ≤ n / 2 ^ 52 + d := by
    rcases Nat.eq_zero_or_pos (binadeShift (n / d)) with h0 | hpos
    · rw [h0, pow_zero, mul_one, le_add_iff_nonneg_left]
      positivity
    · have h : (2 ^ 52 * (d * 2 ^ binadeShift (n / d)) : ℚ) ≤ n := by exact_mod_cast hspacing hpos
      have hd' : (0 : ℚ) ≤ d := Nat.cast_nonneg d
      linarith
  rw [abs_le]
  constructor <;> linarith

/-- A whole number of units is off by one part in `2^53` only: the least values are exact. -/
theorem abs_roundUnits_one_sub_le (n : Nat) : |(roundUnits n 1 : ℚ) - n| ≤ n / 2 ^ 53 := by
  obtain ⟨hlow, hhigh, hspacing⟩ := roundUnits_error n 1 Nat.one_pos
  rw [Nat.div_one, Nat.mul_one, Nat.one_mul] at *
  rcases Nat.eq_zero_or_pos (binadeShift n) with h0 | hpos
  · rw [h0] at hlow hhigh
    have heq : roundUnits n 1 = n := by omega
    rw [heq, sub_self, abs_zero]
    positivity
  · have h : (2 ^ 52 * 2 ^ binadeShift n : ℚ) ≤ n := by exact_mod_cast hspacing hpos
    have hlow' : 2 * (n : ℚ) ≤ 2 * roundUnits n 1 + 2 ^ binadeShift n := by exact_mod_cast hlow
    have hhigh' : 2 * (roundUnits n 1 : ℚ) ≤ 2 * n + 2 ^ binadeShift n := by exact_mod_cast hhigh
    rw [abs_le]
    constructor <;> linarith

/-- A finite sum is off by at most one part in `2^53`. -/
theorem abs_units_roundSum_sub_le {z : Int} {zeroSign : Bool} (h : (roundSum z zeroSign).isFinite = true) :
    |((roundSum z zeroSign).units : ℚ) - z| ≤ |(z : ℚ)| / 2 ^ 53 := by
  obtain ⟨neg, hround, hunits⟩ := roundSum_eq_roundFlt z zeroSign
  have herr := abs_roundUnits_one_sub_le z.natAbs
  rw [hround] at h ⊢
  generalize z.natAbs = m at *
  subst hunits
  unfold roundFlt at *
  by_cases hlt : roundUnits m 1 < unitsOverflow
  · rw [if_pos hlt]
    cases neg with
    | false => simpa [Flt.units] using herr
    | true =>
      rw [abs_sub_comm] at herr
      simpa [Flt.units, neg_add_eq_sub] using herr
  · simp [hlt, Flt.isFinite] at h

theorem abs_units_fadd_sub_le {na nb : Bool} {ma mb : Nat}
    (h : (fadd (.fin na ma) (.fin nb mb)).isFinite = true) :
    |((fadd (.fin na ma) (.fin nb mb)).units : ℚ) - ((Flt.fin na ma).units + (Flt.fin nb mb).units)| ≤
      |((Flt.fin na ma).units + (Flt.fin nb mb).units : ℚ)| / 2 ^ 53 := by
  have herr := abs_units_roundSum_sub_le h
  rwa [Int.cast_add] at herr

/-! ## The error of `round_tie` -/

theorem abs_roundTieUnits_sub_le (rule : Tie) (mag : Nat) :
    |(roundTieUnits rule mag * unitsPerOne : ℚ) - mag| ≤ unitsPerOne / 2 := by
  obtain ⟨hlow, hhigh⟩ := roundTieUnits_error rule mag
  have hlow' : 2 * (mag : ℚ) ≤ 2 * (roundTieUnits rule mag * unitsPerOne) + unitsPerOne := by exact_mod_cast hlow
  have hhigh' : 2 * (roundTieUnits rule mag * unitsPerOne : ℚ) ≤ 2 * mag + unitsPerOne := by exact_mod_cast hhigh
  rw [abs_le]
  constructor <;> linarith

/-- The integer less than one half away is the one `round_tie` gives; both sides multiplied by a divisor. -/
theorem roundTieUnits_of_abs_lt (rule : Tie) {mag n d : Nat} (hd : 0 < d)
    (h : |(mag * d : ℚ) - n * unitsPerOne * d| < unitsPerOne * d / 2) : roundTieUnits rule mag = n := by
  have hd' : (0 : ℚ) < d := by exact_mod_cast hd
  rw [← sub_mul, abs_mul, abs_of_pos hd', mul_div_right_comm] at h
  have hnear := lt_of_mul_lt_mul_right h hd'.le
  rw [lt_div_iff₀ two_pos, mul_comm] at hnear
  apply roundTieUnits_of_near
  qify
  exact hnear

/-! ## The magnitudes QENC and QDEC compute -/

/-- The magnitude of `fsub(b, a)` for `a` at most `b` (R82); `fsub_eq_roundFlt` ties it to the model. -/
def gap (a b : Flt) : Nat := roundUnits (b.units - a.units).toNat 1

/-- The magnitude of QENC's quotient for the largest code `N`, the rounded span `S` and the rounded distance `D` of the
value from the lower bound (R86); `ValidBounds.quotient_eq` ties it to the model. -/
def codeUnits (N S D : Nat) : Nat := roundUnits (roundUnits (D * N) 1 * unitsPerOne) S

/-- The magnitude of QDEC's distance from the lower bound, `fdiv(fmul(r, s), N)` (R88); `ValidBounds.dequantised_eq`
ties it to the model. -/
def decodedUnits (N S r : Nat) : Nat := roundUnits (roundUnits (r * S) 1) N

theorem gap_mono {a b b' : Flt} (h : b.units ≤ b'.units) : gap a b ≤ gap a b' :=
  roundUnits_mono _ _ _ _ Nat.one_pos Nat.one_pos (by omega)

theorem codeUnits_mono {N S D D' : Nat} (hS : 0 < S) (h : D ≤ D') : codeUnits N S D ≤ codeUnits N S D' := by
  have hproduct := roundUnits_mono (D * N) 1 (D' * N) 1 Nat.one_pos Nat.one_pos
    (Nat.mul_le_mul_right 1 (Nat.mul_le_mul_right N h))
  exact roundUnits_mono _ _ _ _ hS hS (Nat.mul_le_mul_right S (Nat.mul_le_mul_right unitsPerOne hproduct))

theorem two_pow_le_unitsPerOne : 2 ^ 53 ≤ unitsPerOne := by
  rw [unitsPerOne]
  gcongr <;> omega

/-- QENC's quotient is the exact one within `N / 2^50`, here multiplied by the span. -/
theorem abs_codeUnits_sub_le {N S D : Nat} (hN : 1 ≤ N) (hS : 0 < S) (hD : D ≤ S) :
    |(codeUnits N S D * S : ℚ) - D * N * unitsPerOne| ≤ S * N * unitsPerOne / 2 ^ 50 := by
  have hproduct := abs_roundUnits_one_sub_le (D * N)
  have hquotient := abs_roundUnits_mul_sub_le (roundUnits (D * N) 1 * unitsPerOne) hS
  have hDN : (D * N * unitsPerOne : ℚ) ≤ S * N * unitsPerOne := by
    exact_mod_cast Nat.mul_le_mul_right unitsPerOne (Nat.mul_le_mul_right N hD)
  have hS53 : (S * 2 ^ 53 : ℚ) ≤ S * N * unitsPerOne := by
    exact_mod_cast Nat.mul_le_mul (Nat.le_mul_of_pos_right S hN) two_pow_le_unitsPerOne
  have hU : (0 : ℚ) ≤ unitsPerOne := Nat.cast_nonneg _
  push_cast at hproduct hquotient
  rw [← codeUnits] at hquotient
  have hscaled := abs_mul_le_mul hproduct hU
  rw [abs_le] at *
  obtain ⟨p1, p2⟩ := hscaled
  obtain ⟨q1, q2⟩ := hquotient
  constructor <;> linarith

/-- QDEC's distance from the lower bound is the exact one within `S / 2^51`, here multiplied by `N`. -/
theorem abs_decodedUnits_sub_le {N S r : Nat} (hN : 0 < N) (hr : r ≤ N) (hS : 2 ^ 53 ≤ S) :
    |(decodedUnits N S r * N : ℚ) - r * S| ≤ S * N / 2 ^ 51 := by
  have hproduct := abs_roundUnits_one_sub_le (r * S)
  have hquotient := abs_roundUnits_mul_sub_le (roundUnits (r * S) 1) hN
  have hrS : (r * S : ℚ) ≤ S * N := by exact_mod_cast (Nat.mul_comm r S).trans_le (Nat.mul_le_mul_left S hr)
  have hSN : (2 ^ 53 * N : ℚ) ≤ S * N := by exact_mod_cast Nat.mul_le_mul_right N hS
  push_cast at hproduct hquotient
  rw [← decodedUnits] at hquotient
  rw [abs_le] at *
  obtain ⟨p1, p2⟩ := hproduct
  obtain ⟨q1, q2⟩ := hquotient
  constructor <;> linarith

end Sys2Proof.Machine
end

section
/-! SUPPORT. What QENC, QENCS and QDEC answer, said once: the status by the operands, and QENC's quotient under valid
bounds (spec/40_quantization.md R85 to R88). -/

namespace Sys2Proof.Machine

/-! ## The status by the operands -/

theorem Flt.isFinite_iff {v : Flt} : v.isFinite = true ↔ ∃ neg mag, v = .fin neg mag := by
  cases v <;> simp [Flt.isFinite]

theorem Flt.lt_iff_units {a b : Flt} (ha : a.isFinite = true) (hb : b.isFinite = true) :
    a.lt b = true ↔ a.units < b.units := by
  obtain ⟨na, ma, rfl⟩ := Flt.isFinite_iff.mp ha
  obtain ⟨nb, mb, rfl⟩ := Flt.isFinite_iff.mp hb
  simp [Flt.lt]

theorem Flt.le_iff_units {a b : Flt} (ha : a.isFinite = true) (hb : b.isFinite = true) :
    a.le b = true ↔ a.units ≤ b.units := by
  obtain ⟨na, ma, rfl⟩ := Flt.isFinite_iff.mp ha
  obtain ⟨nb, mb, rfl⟩ := Flt.isFinite_iff.mp hb
  exact fin_le_fin_iff na nb ma mb

theorem Flt.isNaN_of_isFinite {v : Flt} (h : v.isFinite = true) : v.isNaN = false := by
  obtain ⟨neg, mag, rfl⟩ := Flt.isFinite_iff.mp h
  rfl

/-- What lies between two finite values is finite. -/
theorem Flt.isFinite_of_between {a b v : Flt} (ha : a.isFinite = true) (hb : b.isFinite = true) (hlow : a.le v = true)
    (hhigh : v.le b = true) : v.isFinite = true := by
  obtain ⟨na, ma, rfl⟩ := Flt.isFinite_iff.mp ha
  obtain ⟨nb, mb, rfl⟩ := Flt.isFinite_iff.mp hb
  cases v with
  | nan => simp [Flt.le] at hlow
  | inf s => simp_all [Flt.le]
  | fin s m => rfl

/-- The conditions of R85, one by one. -/
theorem qvalid_iff (c : Cfg) (mn mx : F64) (bits : BitVec 8) :
    qvalid c mn mx bits = true ↔
      (f64Value mn).isFinite = true ∧ (f64Value mx).isFinite = true ∧ (f64Value mn).units < (f64Value mx).units ∧
      c.bitsMin.toNat ≤ bits.toNat ∧ bits.toNat ≤ c.bitsMax.toNat ∧
      (fsub (f64Value mx) (f64Value mn)).isFinite = true ∧
      (fmul (fsub (f64Value mx) (f64Value mn)) (fltOfNat (codeMax bits))).isFinite = true := by
  simp only [qvalid, Bool.and_eq_true, decide_eq_true_eq, and_assoc]
  refine and_congr_right fun hmn => and_congr_right fun hmx => ?_
  rw [Flt.lt_iff_units hmn hmx]

section

variable {s : State} {value mn mx : F64} {raw : BitVec 32} {bits : BitVec 8}

/-- QENC answers the rounded quotient of the clamped value (R86). -/
theorem exec_qenc (hq : qvalid s.cfg mn mx bits = true) (hv : (f64Value value).isNaN = false) :
    exec (.qenc value mn mx bits) s = .next { s with resp := some (.ok (.code (BitVec.ofNat 32
      (roundTie s.cfg.roundTie (quotient (clamp (f64Value value) (f64Value mn) (f64Value mx))
        (f64Value mn) (f64Value mx) bits))))) } := by
  rcases qencValue_cases s.cfg (f64Value value) mn mx bits with ⟨h | h, -⟩ | ⟨-, -, h⟩
  · simp [hq] at h
  · simp [hv] at h
  · rw [exec_eq_respond, answer, h]
    rfl

/-- QENC refuses bad bounds and a NaN (R85, R86). -/
theorem exec_qenc_invalid (h : qvalid s.cfg mn mx bits = false ∨ (f64Value value).isNaN = true) :
    exec (.qenc value mn mx bits) s = .next { s with resp := some (.raised .invalidOperand) } := by
  rcases qencValue_cases s.cfg (f64Value value) mn mx bits with ⟨-, he⟩ | ⟨hq, hv, -⟩
  · rw [exec_eq_respond, answer, he]
    rfl
  · simp [hq, hv] at h

/-- QENCS answers the rounded quotient of a value inside (R87). -/
theorem exec_qencs (hq : qvalid s.cfg mn mx Config.qbits = true) (hv : inRange value mn mx = true) :
    exec (.qencs value mn mx) s = .next { s with resp := some (.ok (.code (BitVec.ofNat 32
      (roundTie s.cfg.roundTie (quotient (f64Value value) (f64Value mn) (f64Value mx) Config.qbits))))) } := by
  rw [inRange, Bool.and_eq_true] at hv
  rcases qencsValue_cases s.cfg (f64Value value) mn mx with ⟨h, -⟩ | ⟨-, h, -⟩ | ⟨-, -, -, h⟩
  · simp [hq] at h
  · exact absurd hv h
  · rw [exec_eq_respond, answer, h]
    rfl

/-- QENCS refuses bad bounds, whatever the value (R87, R191). -/
theorem exec_qencs_invalid (hq : qvalid s.cfg mn mx Config.qbits = false) :
    exec (.qencs value mn mx) s = .next { s with resp := some (.raised .invalidOperand) } := by
  rcases qencsValue_cases s.cfg (f64Value value) mn mx with ⟨-, h⟩ | ⟨h, -⟩ | ⟨h, -⟩
  · rw [exec_eq_respond, answer, h]
    rfl
  all_goals simp [hq] at h

/-- QENCS rejects a value outside (R87). -/
theorem exec_qencs_range (hq : qvalid s.cfg mn mx Config.qbits = true) (hv : inRange value mn mx = false) :
    exec (.qencs value mn mx) s = .next { s with resp := some (.raised .rangeError) } := by
  rcases qencsValue_cases s.cfg (f64Value value) mn mx with ⟨h, -⟩ | ⟨-, -, h⟩ | ⟨-, hlow, hhigh, -⟩
  · simp [hq] at h
  · rw [exec_eq_respond, answer, h]
    rfl
  · simp [inRange, hlow, hhigh] at hv

/-- QDEC answers the pattern of its value (R88). -/
theorem exec_qdec (hq : qvalid s.cfg mn mx bits = true) :
    exec (.qdec raw mn mx bits) s =
      .next { s with resp := some (.ok (.real (f64Pattern (dequantised raw (f64Value mn) (f64Value mx) bits)))) } := by
  rcases qdecValue_cases s.cfg raw mn mx bits with ⟨h, -⟩ | ⟨-, h⟩
  · simp [hq] at h
  · rw [exec_eq_respond, answer, h]
    rfl

/-- QDEC refuses bad bounds (R88). -/
theorem exec_qdec_invalid (hq : qvalid s.cfg mn mx bits = false) :
    exec (.qdec raw mn mx bits) s = .next { s with resp := some (.raised .invalidOperand) } := by
  rcases qdecValue_cases s.cfg raw mn mx bits with ⟨-, h⟩ | ⟨h, -⟩
  · rw [exec_eq_respond, answer, h]
    rfl
  · simp [hq] at h

end

/-! ## Valid bounds, exactly -/

theorem roundFlt_eq_fin {n d : Nat} (h : roundUnits n d < unitsOverflow) (neg : Bool) :
    roundFlt neg n d = .fin neg (roundUnits n d) := if_pos h

theorem roundUnits_lt_of_isFinite {neg : Bool} {n d : Nat} (h : (roundFlt neg n d).isFinite = true) :
    roundUnits n d < unitsOverflow := by
  by_contra hover
  rw [roundFlt, if_neg hover] at h
  simp [Flt.isFinite] at h

/-- A difference that is not negative is rounded to a magnitude; its sign matters to a zero only. -/
theorem fsub_eq_roundFlt {a b : Flt} (ha : a.isFinite = true) (hb : b.isFinite = true) (h : a.units ≤ b.units) :
    ∃ neg, fsub b a = roundFlt neg (b.units - a.units).toNat 1 := by
  obtain ⟨na, ma, rfl⟩ := Flt.isFinite_iff.mp ha
  obtain ⟨nb, mb, rfl⟩ := Flt.isFinite_iff.mp hb
  obtain ⟨neg, hround, -⟩ := roundSum_eq_roundFlt ((Flt.fin nb mb).units - (Flt.fin na ma).units) (nb && !na)
  have hmag : ((Flt.fin nb mb).units - (Flt.fin na ma).units).toNat =
      ((Flt.fin nb mb).units - (Flt.fin na ma).units).natAbs := by omega
  refine ⟨neg, ?_⟩
  rw [hmag, ← hround, sub_eq_add_neg, ← units_neg]
  rfl

/-- A product of magnitudes that is a whole number of units is rounded as such. -/
theorem fmul_eq_roundFlt {ma mb m : Nat} (h : ma * mb = m * unitsPerOne) (na nb : Bool) :
    fmul (.fin na ma) (.fin nb mb) = roundFlt (na != nb) m 1 := by
  rw [fmul, roundFlt, roundFlt, h, roundUnits_congr _ _ m 1 unitsPerOne_pos Nat.one_pos (by ring)]

/-- What valid bounds give the arithmetic (R83, R85): finite bounds in order, a rounded span and its product with `N`
below the overflow, and an `N` of 1 to 32 bits. -/
structure ValidBounds (mn mx : Flt) (N : Nat) : Prop where
  finite_low : mn.isFinite = true
  finite_high : mx.isFinite = true
  ordered : mn.units < mx.units
  span_eq : fsub mx mn = .fin false (gap mn mx)
  span_lt : gap mn mx < unitsOverflow
  scaled_lt : roundUnits (gap mn mx * N) 1 < unitsOverflow
  code_pos : 1 ≤ N
  code_lt : N < 2 ^ 32

/-- `qvalid` under a valid configuration. -/
theorem validBounds_of_qvalid {c : Cfg} {mn mx : F64} {bits : BitVec 8} (hc : cfgValid c = true)
    (hq : qvalid c mn mx bits = true) : ValidBounds (f64Value mn) (f64Value mx) (codeMax bits) := by
  obtain ⟨hbmin, hbmax⟩ := bits_of_cfgValid hc
  obtain ⟨-, ⟨span, hspan⟩, -, -⟩ := qvalid_cases hq
  obtain ⟨hmn, hmx, hlt, hlow, hhigh, hspanfin, hscaled⟩ := (qvalid_iff c mn mx bits).mp hq
  obtain ⟨hpos, hcode⟩ := codeMax_bounds (hbmin.trans hlow) (hhigh.trans hbmax)
  have hcode32 : codeMax bits < 2 ^ 32 := by
    have hpow : 2 ^ bits.toNat ≤ 2 ^ 32 := Nat.pow_le_pow_right (by omega) (hhigh.trans hbmax)
    unfold codeMax
    omega
  have hgap : gap (f64Value mn) (f64Value mx) < unitsOverflow ∧ span = gap (f64Value mn) (f64Value mx) := by
    obtain ⟨neg, hround⟩ := fsub_eq_roundFlt hmn hmx hlt.le
    rw [hround] at hspanfin
    have hover : gap (f64Value mn) (f64Value mx) < unitsOverflow := roundUnits_lt_of_isFinite hspanfin
    rw [roundFlt_eq_fin hover] at hround
    exact ⟨hover, (Flt.fin.inj (hspan.symm.trans hround)).2⟩
  obtain ⟨hover, rfl⟩ := hgap
  refine ⟨hmn, hmx, hlt, hspan, hover, ?_, hpos, hcode32⟩
  rw [hspan, fltOfNat_eq_fin hcode, fmul_eq_roundFlt (Nat.mul_assoc _ _ _).symm] at hscaled
  exact roundUnits_lt_of_isFinite hscaled

namespace ValidBounds

variable {mn mx v w : Flt} {N : Nat} {bits : BitVec 8}

theorem span_pos (hb : ValidBounds mn mx N) : 0 < gap mn mx := by
  have hlt := hb.ordered
  have hone := roundUnits_mono (1 * 1) 1 (mx.units - mn.units).toNat 1 Nat.one_pos Nat.one_pos (by omega)
  rwa [roundUnits_exact 1 1 Nat.one_pos ⟨1, 0, by decide, rfl⟩] at hone

/-- The quotient stays below the overflow: it is the exact one, at most `N`, but for a rounding. -/
theorem codeUnits_lt (hb : ValidBounds mn mx N) {D : Nat} (hD : D ≤ gap mn mx) :
    codeUnits N (gap mn mx) D < unitsOverflow := by
  have hS := hb.span_pos
  have herr := (abs_le.mp (abs_codeUnits_sub_le hb.code_pos hS hD)).2
  have hDN : (D * N * unitsPerOne : ℚ) ≤ gap mn mx * N * unitsPerOne := by
    exact_mod_cast Nat.mul_le_mul_right unitsPerOne (Nat.mul_le_mul_right N hD)
  have hpos : (0 : ℚ) ≤ gap mn mx * N * unitsPerOne := by
    exact_mod_cast Nat.zero_le (gap mn mx * N * unitsPerOne)
  have hbound : (codeUnits N (gap mn mx) D * gap mn mx : ℚ) ≤ 2 * N * unitsPerOne * gap mn mx := by linarith
  have hbound : codeUnits N (gap mn mx) D ≤ 2 * N * unitsPerOne :=
    Nat.le_of_mul_le_mul_right (by exact_mod_cast hbound) hS
  have hcode := hb.code_lt
  calc codeUnits N (gap mn mx) D ≤ 2 * N * unitsPerOne := hbound
    _ < 2 ^ 33 * unitsPerOne := Nat.mul_lt_mul_of_pos_right (by omega) unitsPerOne_pos
    _ = 2 ^ (33 + 1074) := by rw [unitsPerOne, Nat.pow_add]
    _ ≤ unitsOverflow := by
      rw [unitsOverflow]
      gcongr <;> omega

/-- QENC's quotient of a value inside the bounds is finite (R89 L3). -/
theorem quotient_eq (hb : ValidBounds mn mx (codeMax bits)) (hv : v.isFinite = true) (hlow : mn.units ≤ v.units)
    (hhigh : v.units ≤ mx.units) :
    ∃ neg, quotient v mn mx bits = .fin neg (codeUnits (codeMax bits) (gap mn mx) (gap mn v)) := by
  have hD := gap_mono (a := mn) hhigh
  have hproduct := roundUnits_mono _ 1 _ 1 Nat.one_pos Nat.one_pos
    (Nat.mul_le_mul_right 1 (Nat.mul_le_mul_right (codeMax bits) hD))
  have hcode := hb.code_lt
  obtain ⟨neg, hround⟩ := fsub_eq_roundFlt hb.finite_low hv hlow
  have hsub : fsub v mn = .fin neg (gap mn v) :=
    hround.trans (roundFlt_eq_fin (hD.trans_lt hb.span_lt) neg)
  refine ⟨neg, ?_⟩
  rw [quotient, hsub, hb.span_eq, fltOfNat_eq_fin (hcode.trans (by decide)),
    fmul_eq_roundFlt (Nat.mul_assoc _ _ _).symm, roundFlt_eq_fin (hproduct.trans_lt hb.scaled_lt), fdiv,
    if_neg hb.span_pos.ne', Bool.bne_false, Bool.bne_false]
  exact roundFlt_eq_fin (hb.codeUnits_lt hD) neg

end ValidBounds

end Sys2Proof.Machine
end

section
/-! SUPPORT. The statements about QENC and QENCS (spec/40_quantization.md R84 to R87, R89). -/

namespace Sys2Proof.Machine

/-! ## The clamp -/

section

variable {mn mx v w : Flt} (hmn : mn.isFinite = true) (hmx : mx.isFinite = true) (hle : mn.units ≤ mx.units)
include hmn hmx hle

omit hle in
/-- Infinities are clamped like any other value (R86). -/
theorem clamp_inf (s : Bool) : clamp (.inf s) mn mx = if s then mn else mx := by
  obtain ⟨na, ma, rfl⟩ := Flt.isFinite_iff.mp hmn
  obtain ⟨nb, mb, rfl⟩ := Flt.isFinite_iff.mp hmx
  cases s <;> rfl

/-- A finite value is clamped to the nearest of the range. -/
theorem units_clamp (hv : v.isFinite = true) :
    (clamp v mn mx).isFinite = true ∧ (clamp v mn mx).units = max mn.units (min v.units mx.units) := by
  unfold clamp
  by_cases hlow : v.units < mn.units
  · rw [if_pos ((Flt.lt_iff_units hv hmn).mpr hlow)]
    exact ⟨hmn, by omega⟩
  rw [if_neg (mt (Flt.lt_iff_units hv hmn).mp hlow)]
  by_cases hhigh : mx.units < v.units
  · rw [if_pos ((Flt.lt_iff_units hmx hv).mpr hhigh)]
    exact ⟨hmx, by omega⟩
  · rw [if_neg (mt (Flt.lt_iff_units hmx hv).mp hhigh)]
    exact ⟨hv, by omega⟩

theorem clamp_mem (hv : v.isNaN = false) :
    (clamp v mn mx).isFinite = true ∧ mn.units ≤ (clamp v mn mx).units ∧ (clamp v mn mx).units ≤ mx.units := by
  cases v with
  | nan => simp [Flt.isNaN] at hv
  | inf s =>
    rw [clamp_inf hmn hmx]
    cases s
    · exact ⟨hmx, hle, le_rfl⟩
    · exact ⟨hmn, le_rfl, hle⟩
  | fin s m =>
    obtain ⟨hfin, hunits⟩ := units_clamp hmn hmx hle (v := .fin s m) rfl
    exact ⟨hfin, by omega, by omega⟩

/-- The clamp is monotone. -/
theorem clamp_mono (h : v.le w = true) : (clamp v mn mx).units ≤ (clamp w mn mx).units := by
  obtain ⟨hv, hw⟩ := Flt.isNaN_of_le h
  rcases Flt.le_cases h with ⟨rfl, -⟩ | ⟨rfl, -⟩ | ⟨na, ma, nb, mb, rfl, rfl, hunits⟩
  · rw [clamp_inf hmn hmx]
    exact (clamp_mem hmn hmx hle hw).2.1
  · rw [clamp_inf hmn hmx]
    exact (clamp_mem hmn hmx hle hv).2.2
  · rw [(units_clamp hmn hmx hle rfl).2, (units_clamp hmn hmx hle rfl).2]
    omega

omit hle in
theorem clamp_of_mem (hv : v.isFinite = true) (hlow : mn.units ≤ v.units) (hhigh : v.units ≤ mx.units) :
    clamp v mn mx = v := by
  rw [clamp, if_neg (mt (Flt.lt_iff_units hv hmn).mp (by omega)), if_neg (mt (Flt.lt_iff_units hmx hv).mp (by omega))]

/-- A value above the range is not below it. -/
theorem clamp_of_above (h : mx.lt v = true) : clamp v mn mx = mx := by
  have hlow : ¬v.lt mn = true := by
    intro hlow
    cases v with
    | nan => simp [Flt.lt] at hlow
    | inf s =>
      obtain ⟨na, ma, rfl⟩ := Flt.isFinite_iff.mp hmn
      obtain ⟨nb, mb, rfl⟩ := Flt.isFinite_iff.mp hmx
      simp_all [Flt.lt]
    | fin s m =>
      have hlow' := (Flt.lt_iff_units rfl hmn).mp hlow
      have hhigh' := (Flt.lt_iff_units hmx rfl).mp h
      omega
  rw [clamp, if_neg hlow, if_pos h]

end

/-- A NaN is not ordered (R9). -/
theorem Flt.isNaN_of_lt {a b : Flt} (h : a.lt b = true) : a.isNaN = false ∧ b.isNaN = false := by
  cases a <;> cases b <;> simp_all [Flt.lt, Flt.isNaN]

/-- Settles O21: a value beyond the range and the edge itself are clamped to that edge. -/
theorem qencClamps : Obligations.QencClamps := by
  intro s value mn mx bits hq
  obtain ⟨hmn, hmx, hlt, -⟩ := (qvalid_iff _ mn mx bits).mp hq
  refine ⟨fun habove => ?_, fun hbelow => ?_⟩
  · rw [exec_qenc hq (Flt.isNaN_of_lt habove).2, exec_qenc hq (Flt.isNaN_of_isFinite hmx),
      clamp_of_above hmn hmx hlt.le habove, clamp_of_mem hmn hmx hmx hlt.le le_rfl]
  · rw [exec_qenc hq (Flt.isNaN_of_lt hbelow).1, exec_qenc hq (Flt.isNaN_of_isFinite hmn),
      clamp, if_pos hbelow, clamp_of_mem hmn hmx hmn le_rfl hlt.le]

/-! ## The code of a value inside the range -/

namespace ValidBounds

variable {mn mx v w : Flt} {N : Nat} {bits : BitVec 8}

theorem clamp_mem (hb : ValidBounds mn mx N) (hv : v.isNaN = false) :
    (clamp v mn mx).isFinite = true ∧ mn.units ≤ (clamp v mn mx).units ∧ (clamp v mn mx).units ≤ mx.units :=
  Machine.clamp_mem hb.finite_low hb.finite_high hb.ordered.le hv

/-- The quotient of the upper bound rounds to `N` exactly (R89 L2). -/
theorem roundTieUnits_span (hb : ValidBounds mn mx N) (rule : Tie) :
    roundTieUnits rule (codeUnits N (gap mn mx) (gap mn mx)) = N := by
  have hS := hb.span_pos
  have hS' : (0 : ℚ) < gap mn mx := by exact_mod_cast hS
  have hU : (0 : ℚ) < unitsPerOne := by exact_mod_cast unitsPerOne_pos
  have hN : (N : ℚ) ≤ 2 ^ 32 := by exact_mod_cast hb.code_lt.le
  have hbound := mul_le_mul_of_nonneg_left hN (mul_pos hS' hU).le
  refine roundTieUnits_of_abs_lt rule hS ?_
  have herr := abs_codeUnits_sub_le hb.code_pos hS le_rfl
  have hpos := mul_pos hS' hU
  rw [show (N * unitsPerOne * gap mn mx : ℚ) = gap mn mx * N * unitsPerOne by ring]
  refine herr.trans_lt ?_
  linarith

/-- The quotient of the lower bound is zero (R89 L2). -/
theorem roundTieUnits_zero (hb : ValidBounds mn mx N) (rule : Tie) :
    roundTieUnits rule (codeUnits N (gap mn mx) (gap mn mn)) = 0 := by
  have hgap : gap mn mn = 0 := by rw [gap, sub_self, Int.toNat_zero, roundUnits_zero 1 Nat.one_pos]
  have hcode : codeUnits N (gap mn mx) 0 = 0 := by
    rw [codeUnits, Nat.zero_mul, roundUnits_zero 1 Nat.one_pos, Nat.zero_mul, roundUnits_zero _ hb.span_pos]
  rw [hgap, hcode]
  refine roundTieUnits_of_near rule ?_
  rw [Nat.cast_zero, zero_mul, sub_zero, Int.natAbs_zero, Nat.mul_zero]
  exact unitsPerOne_pos

theorem roundTieUnits_mono (hb : ValidBounds mn mx N) (rule : Tie) (h : v.units ≤ w.units) :
    roundTieUnits rule (codeUnits N (gap mn mx) (gap mn v)) ≤
      roundTieUnits rule (codeUnits N (gap mn mx) (gap mn w)) :=
  Machine.roundTieUnits_mono rule (codeUnits_mono hb.span_pos (gap_mono h))

/-- A code is at most `N` (R89 L3), being at most the one of the upper bound. -/
theorem roundTieUnits_le (hb : ValidBounds mn mx N) (rule : Tie) (h : v.units ≤ mx.units) :
    roundTieUnits rule (codeUnits N (gap mn mx) (gap mn v)) ≤ N :=
  (hb.roundTieUnits_mono rule h).trans_eq (hb.roundTieUnits_span rule)

/-- A code has at most 32 bits. -/
theorem toNat_code (hb : ValidBounds mn mx N) (rule : Tie) (h : v.units ≤ mx.units) :
    (BitVec.ofNat 32 (roundTieUnits rule (codeUnits N (gap mn mx) (gap mn v)))).toNat =
      roundTieUnits rule (codeUnits N (gap mn mx) (gap mn v)) := by
  rw [BitVec.toNat_ofNat, Nat.mod_eq_of_lt ((hb.roundTieUnits_le rule h).trans_lt hb.code_lt)]

theorem roundTie_quotient (hb : ValidBounds mn mx (codeMax bits)) (rule : Tie) (hv : v.isFinite = true)
    (hlow : mn.units ≤ v.units) (hhigh : v.units ≤ mx.units) :
    roundTie rule (quotient v mn mx bits) = roundTieUnits rule (codeUnits (codeMax bits) (gap mn mx) (gap mn v)) := by
  obtain ⟨neg, hquot⟩ := hb.quotient_eq hv hlow hhigh
  rw [hquot, roundTie_fin]

end ValidBounds

section

variable {s : State} {value mn mx : F64} {bits : BitVec 8} (hc : cfgValid s.cfg = true)
  (hq : qvalid s.cfg mn mx bits = true)
include hc hq

/-- QENC's code, by the magnitude of its quotient (R86). -/
theorem exec_qenc_code (hv : (f64Value value).isNaN = false) :
    exec (.qenc value mn mx bits) s = .next { s with resp := some (.ok (.code (BitVec.ofNat 32
      (roundTieUnits s.cfg.roundTie (codeUnits (codeMax bits) (gap (f64Value mn) (f64Value mx))
        (gap (f64Value mn) (clamp (f64Value value) (f64Value mn) (f64Value mx)))))))) } := by
  have hb := validBounds_of_qvalid hc hq
  obtain ⟨hfin, hlow, hhigh⟩ := hb.clamp_mem hv
  rw [exec_qenc hq hv, hb.roundTie_quotient _ hfin hlow hhigh]

/-- Inside the range the clamp does nothing. -/
theorem exec_qenc_code_inside (hv : (f64Value value).isFinite = true)
    (hlow : (f64Value mn).units ≤ (f64Value value).units) (hhigh : (f64Value value).units ≤ (f64Value mx).units) :
    exec (.qenc value mn mx bits) s = .next { s with resp := some (.ok (.code (BitVec.ofNat 32
      (roundTieUnits s.cfg.roundTie (codeUnits (codeMax bits) (gap (f64Value mn) (f64Value mx))
        (gap (f64Value mn) (f64Value value))))))) } := by
  have hb := validBounds_of_qvalid hc hq
  rw [exec_qenc_code hc hq (Flt.isNaN_of_isFinite hv),
    clamp_of_mem hb.finite_low hb.finite_high hv hlow hhigh]

end

/-- Settles O19: the quotient is finite, and rounds to at most the code of the upper bound. -/
theorem qencAnswersCode : Obligations.QencAnswersCode := by
  refine ⟨fun s value mn mx bits hc hq hv => ?_, fun s value mn mx bits hv => exec_qenc_invalid (.inr hv)⟩
  have hb := validBounds_of_qvalid hc hq
  obtain ⟨hfin, hlow, hhigh⟩ := hb.clamp_mem hv
  obtain ⟨neg, hquot⟩ := hb.quotient_eq hfin hlow hhigh
  refine ⟨_, neg, _, exec_qenc_code hc hq hv, hquot, hb.toNat_code _ hhigh, ?_⟩
  rw [hb.toNat_code _ hhigh]
  exact hb.roundTieUnits_le _ hhigh

/-- Settles O22: both bounds lie inside the range, at the least and the greatest distance. -/
theorem qencEndPoints : Obligations.QencEndPoints := by
  intro s mn mx bits hc hq
  have hb := validBounds_of_qvalid hc hq
  constructor
  · rw [exec_qenc_code_inside hc hq hb.finite_low le_rfl hb.ordered.le, hb.roundTieUnits_zero]
  · rw [exec_qenc_code_inside hc hq hb.finite_high hb.ordered.le le_rfl, hb.roundTieUnits_span]
    rfl

/-- Settles O23: the clamp, the three steps and the last rounding each keep the order. -/
theorem qencMonotone : Obligations.QencMonotone := by
  intro s v w mn mx bits hc hq hvw
  have hb := validBounds_of_qvalid hc hq
  obtain ⟨hv, hw⟩ := Flt.isNaN_of_le hvw
  obtain ⟨-, -, hvhigh⟩ := hb.clamp_mem hv
  obtain ⟨-, -, hwhigh⟩ := hb.clamp_mem hw
  refine ⟨_, _, exec_qenc_code hc hq hv, exec_qenc_code hc hq hw, ?_⟩
  rw [hb.toNat_code _ hvhigh, hb.toNat_code _ hwhigh]
  exact hb.roundTieUnits_mono _ (clamp_mono hb.finite_low hb.finite_high hb.ordered.le hvw)

/-! ## QENCS -/

/-- A value inside a valid range is finite, and its units lie between the bounds'. -/
theorem ValidBounds.inside {mn mx value : F64} {N : Nat} (hb : ValidBounds (f64Value mn) (f64Value mx) N)
    (h : inRange value mn mx = true) :
    (f64Value value).isFinite = true ∧ (f64Value mn).units ≤ (f64Value value).units ∧
      (f64Value value).units ≤ (f64Value mx).units := by
  obtain ⟨hlow, hhigh⟩ := Bool.and_eq_true_iff.mp h
  have hv := Flt.isFinite_of_between hb.finite_low hb.finite_high hlow hhigh
  exact ⟨hv, (Flt.le_iff_units hb.finite_low hv).mp hlow, (Flt.le_iff_units hv hb.finite_high).mp hhigh⟩

/-- Settles O26: inside the range the clamp does nothing, so QENCS computes QENC's quotient. -/
theorem qencsAccepts : Obligations.QencsAccepts := by
  intro s value mn mx hc hq hv
  have hb := validBounds_of_qvalid hc hq
  obtain ⟨hfin, hlow, hhigh⟩ := hb.inside hv
  have hround := hb.roundTie_quotient s.cfg.roundTie hfin hlow hhigh
  refine ⟨_, exec_qencs hq hv, ?_, ?_, ?_⟩
  · rw [exec_qenc_code_inside hc hq hfin hlow hhigh, ← hround]
    rfl
  · change (BitVec.ofNat 32 (roundTie s.cfg.roundTie (quotient _ _ _ 16#8))).toNat = roundTie _ (quotient _ _ _ 16#8)
    rw [hround, hb.toNat_code _ hhigh]
  · change (BitVec.ofNat 32 (roundTie s.cfg.roundTie (quotient _ _ _ 16#8))).toNat ≤ codeMax 16#8
    rw [hround, hb.toNat_code _ hhigh]
    exact hb.roundTieUnits_le _ hhigh

/-- Settles O27: nothing but a finite value lies between finite bounds. -/
theorem qencsRejects : Obligations.QencsRejects := by
  intro s value mn mx
  refine ⟨exec_qencs_invalid, fun hq hv => exec_qencs_range hq ?_⟩
  obtain ⟨hmn, hmx, -⟩ := (qvalid_iff s.cfg mn mx 16#8).mp hq
  by_contra hinside
  rw [Bool.not_eq_false] at hinside
  obtain ⟨hlow, hhigh⟩ := Bool.and_eq_true_iff.mp hinside
  simp [hinside, Flt.isFinite_of_between hmn hmx hlow hhigh] at hv

/-! ## The five ranges -/

/-- The configurations the spec allows include the protocol's width (R15). -/
theorem qbits_of_cfgValid {c : Cfg} (h : cfgValid c = true) : c.bitsMin.toNat ≤ 16 ∧ 16 ≤ c.bitsMax.toNat := by
  simp only [cfgValid, Bool.and_eq_true, decide_eq_true_eq] at h
  tauto

/-- What evaluates to true over the list holds of each of the five ranges. -/
theorem of_all_protocolRanges {p : F64 × F64 → Prop} [DecidablePred p]
    (hall : protocolRanges.all (fun r => decide (p r)) = true) {mn mx : F64} (h : (mn, mx) ∈ protocolRanges) :
    p (mn, mx) :=
  of_decide_eq_true (List.all_eq_true.mp hall _ h)

/-- The default configuration is one of those the spec allows. -/
theorem cfgValid_default : cfgValid Config.default = true := by decide +kernel

/-- Operands valid under one configuration are valid under every other that allows their width. -/
theorem qvalid_of_qvalid {c c' : Cfg} {mn mx : F64} {bits : BitVec 8} (h : qvalid c mn mx bits = true)
    (hlow : c'.bitsMin.toNat ≤ bits.toNat) (hhigh : bits.toNat ≤ c'.bitsMax.toNat) :
    qvalid c' mn mx bits = true := by
  rw [qvalid_iff] at h ⊢
  obtain ⟨hmn, hmx, hlt, -, -, hspan⟩ := h
  exact ⟨hmn, hmx, hlt, hlow, hhigh, hspan⟩

/-- The five ranges satisfy `qvalid` at 16 bits (R85). -/
theorem qvalid_protocolRanges {c : Cfg} {mn mx : F64} (hc : cfgValid c = true) (h : (mn, mx) ∈ protocolRanges) :
    qvalid c mn mx 16#8 = true := by
  obtain ⟨hlow, hhigh⟩ := qbits_of_cfgValid hc
  exact qvalid_of_qvalid (c := Config.default)
    (of_all_protocolRanges (p := fun r => qvalid Config.default r.1 r.2 16#8 = true) (by decide +kernel) h) hlow hhigh

/-- Settles O20: the conditions one by one, the refusals, and the five ranges evaluated. -/
theorem validOperands : Obligations.ValidOperands := by
  refine ⟨qvalid_iff, fun s value mn mx raw bits hq => ?_, fun _ _ _ => qvalid_protocolRanges⟩
  refine ⟨exec_qenc_invalid (.inl hq), exec_qdec_invalid hq, ?_⟩
  rintro rfl
  exact exec_qencs_invalid hq

/-! ## The tie rule at work -/

/-- QENC of 0.0 over −12 to 12 meets `32767.5`, and of −8.0 `10922.5` (R84). -/
theorem quotient_of_ties :
    quotient (clamp (f64Value 0x0000000000000000#64) (f64Value Config.tMin) (f64Value Config.tMax))
      (f64Value Config.tMin) (f64Value Config.tMax) 16#8 = .fin false ((2 * 32767 + 1) * 2 ^ 1073) ∧
    quotient (clamp (f64Value 0xC020000000000000#64) (f64Value Config.tMin) (f64Value Config.tMax))
      (f64Value Config.tMin) (f64Value Config.tMax) 16#8 = .fin false ((2 * 10922 + 1) * 2 ^ 1073) := by
  decide +kernel

theorem two_mul_half_units (n : Nat) : 2 * (n * 2 ^ 1073) = n * unitsPerOne := by
  rw [unitsPerOne, Nat.pow_succ 2 1073, Nat.mul_comm 2, Nat.mul_assoc]

theorem roundTie_half (k : Nat) (neg : Bool) {mag : Nat} (h : 2 * mag = (2 * k + 1) * unitsPerOne) (rule : Tie) :
    roundTie rule (.fin neg mag) = if rule = .halfToEven ∧ k % 2 = 0 then k else k + 1 := by
  obtain ⟨haway, heven⟩ := roundTieUnits_half h
  cases rule
  · simp [haway]
  · simp [heven]

/-- Settles O18: the two quotients of the examples are halves. -/
theorem roundTieIsNearest : Obligations.RoundTieIsNearest := by
  refine ⟨fun neg mag _ => ?_, fun s hc => ?_⟩
  · simp only [roundTie_fin]
    exact ⟨fun rule _ => roundTieUnits_of_near rule, fun _ => roundTieUnits_half⟩
  have hq : qvalid s.cfg Config.tMin Config.tMax 16#8 = true := qvalid_protocolRanges hc (by simp [protocolRanges])
  obtain ⟨hzero, height⟩ := quotient_of_ties
  constructor
  · rw [exec_qenc hq (by decide +kernel), hzero, roundTie_half 32767 _ (two_mul_half_units _)]
    simp
  · rw [exec_qenc hq (by decide +kernel), height, roundTie_half 10922 _ (two_mul_half_units _)]
    cases s.cfg.roundTie <;> simp

end Sys2Proof.Machine
end

section
/-! SUPPORT. The statements about QDEC, and about QENC and QDEC one after the other (spec/40_quantization.md R88, R89,
R91). -/

namespace Sys2Proof.Machine

/-! ## QDEC's value -/

/-- The clamp of the code is a minimum (R88). -/
theorem dequantised_eq_min (raw : BitVec 32) (mn mx : Flt) (bits : BitVec 8) :
    dequantised raw mn mx bits =
      fadd (fdiv (fmul (fltOfNat (min raw.toNat (codeMax bits))) (fsub mx mn)) (fltOfNat (codeMax bits))) mn := by
  have hclamp : (if codeMax bits < raw.toNat then codeMax bits else raw.toNat) = min raw.toNat (codeMax bits) := by
    split_ifs <;> omega
  rw [dequantised, hclamp]

theorem dequantised_of_codeMax_le {raw raw' : BitVec 32} {bits : BitVec 8} (h : codeMax bits ≤ raw.toNat)
    (h' : codeMax bits ≤ raw'.toNat) (mn mx : Flt) : dequantised raw mn mx bits = dequantised raw' mn mx bits := by
  rw [dequantised_eq_min, dequantised_eq_min, Nat.min_eq_right h, Nat.min_eq_right h']

/-- Settles O28: the sum is one that binary64 holds, so its pattern stands for it. -/
theorem qdecAnswersValue : Obligations.QdecAnswersValue := by
  intro s raw mn mx bits hc hq
  have hheld := held_dequantised hc hq raw
  refine ⟨_, exec_qdec hq, ?_, ?_⟩
  · rw [f64Value_f64Pattern hheld]
    exact dequantised_eq_min raw _ _ bits
  · rw [f64Value_f64Pattern hheld]
    exact hheld.1

/-- The quotient of two whole numbers of units by a whole number of ones. -/
theorem fdiv_eq_roundFlt {m N : Nat} (hN : 0 < N) :
    fdiv (.fin false m) (.fin false (N * unitsPerOne)) = roundFlt false m N := by
  have hdivisor := Nat.mul_pos hN unitsPerOne_pos
  rw [fdiv, if_neg hdivisor.ne', bne_self_eq_false, roundFlt, roundFlt,
    roundUnits_congr (m * unitsPerOne) _ m N hdivisor hN (by ring)]

/-- Dividing by a whole number does not overflow. -/
theorem decodedUnits_le {N S r : Nat} (hN : 1 ≤ N) : decodedUnits N S r ≤ roundUnits (r * S) 1 := by
  have hexact := roundUnits_exact (roundUnits (r * S) 1) 1 Nat.one_pos (roundUnits_holdable _ 1 Nat.one_pos)
  rw [Nat.mul_one] at hexact
  calc decodedUnits N S r ≤ roundUnits (roundUnits (r * S) 1) 1 :=
        roundUnits_mono _ _ _ _ hN Nat.one_pos (Nat.mul_le_mul_left _ hN)
    _ = roundUnits (r * S) 1 := hexact

/-- QDEC adds the lower bound to a finite distance (R88). -/
theorem ValidBounds.dequantised_eq {mn mx : Flt} {bits : BitVec 8} (hb : ValidBounds mn mx (codeMax bits))
    (raw : BitVec 32) :
    dequantised raw mn mx bits =
      fadd (.fin false (decodedUnits (codeMax bits) (gap mn mx) (min raw.toNat (codeMax bits)))) mn := by
  have hcode := hb.code_lt
  have hr : min raw.toNat (codeMax bits) ≤ codeMax bits := Nat.min_le_right _ _
  have hproduct := roundUnits_mono (min raw.toNat (codeMax bits) * gap mn mx) 1 (gap mn mx * codeMax bits) 1
    Nat.one_pos Nat.one_pos (by rw [Nat.mul_comm (gap mn mx)]; gcongr)
  have hover := hproduct.trans_lt hb.scaled_lt
  rw [dequantised_eq_min, fltOfNat_eq_fin (by omega), fltOfNat_eq_fin (by omega), hb.span_eq,
    fmul_eq_roundFlt (Nat.mul_right_comm _ _ _), roundFlt_eq_fin hover, bne_self_eq_false,
    fdiv_eq_roundFlt hb.code_pos]
  exact congrArg (fadd · mn) (roundFlt_eq_fin ((decodedUnits_le hb.code_pos).trans_lt hover) false)

/-- Adding nothing to a binary64 value leaves its units as they are. -/
theorem units_fadd_zero {x : F64} (h : (f64Value x).isFinite = true) :
    (fadd (.fin false 0) (f64Value x)).isFinite = true ∧
      (fadd (.fin false 0) (f64Value x)).units = (f64Value x).units := by
  obtain ⟨neg, mag, hx⟩ := Flt.isFinite_iff.mp h
  obtain ⟨hold, hlt⟩ := f64Value_holdable x neg mag hx
  have hexact : roundUnits mag 1 = mag := by simpa using roundUnits_exact mag 1 Nat.one_pos hold
  obtain ⟨sign, hround, hunits⟩ := roundSum_eq_roundFlt ((Flt.fin neg mag).units) (false && neg)
  have hsum : fadd (.fin false 0) (.fin neg mag) = .fin sign mag := by
    rw [units_natAbs, roundFlt_eq_fin (by rwa [hexact]), hexact] at hround
    rw [← hround, fadd, show (Flt.fin false 0).units = 0 by rfl, zero_add]
  rw [units_natAbs] at hunits
  rw [hx, hsum, hunits]
  exact ⟨rfl, rfl⟩

/-- Settles O29: the least code adds nothing to the lower bound, and codes from `N` on are clamped alike. -/
theorem qdecEnds : Obligations.QdecEnds := by
  intro s mn mx bits hc hq
  have hb := validBounds_of_qvalid hc hq
  constructor
  · have hzero : decodedUnits (codeMax bits) (gap (f64Value mn) (f64Value mx)) 0 = 0 := by
      rw [decodedUnits, Nat.zero_mul, roundUnits_zero 1 Nat.one_pos, roundUnits_zero _ hb.code_pos]
    have hdec : dequantised 0#32 (f64Value mn) (f64Value mx) bits = fadd (.fin false 0) (f64Value mn) := by
      rw [hb.dequantised_eq, BitVec.toNat_zero, Nat.zero_min, hzero]
    refine ⟨_, exec_qdec hq, ?_⟩
    rw [f64Value_f64Pattern (held_dequantised hc hq _), hdec]
    exact units_fadd_zero hb.finite_low
  · intro raw hraw
    have hN : codeMax bits ≤ (BitVec.ofNat 32 (2 ^ bits.toNat - 1)).toNat := by
      rw [BitVec.toNat_ofNat]
      exact (Nat.mod_eq_of_lt hb.code_lt).ge
    rw [exec_qdec hq, exec_qdec hq, dequantised_of_codeMax_le hraw hN]

/-- Settles O30, by evaluating QDEC at the two ends of each range. -/
theorem protocolEndCodes : Obligations.ProtocolEndCodes := by
  intro s mn mx hc hrange
  have hq := qvalid_protocolRanges hc hrange
  have hends := of_all_protocolRanges (p := fun r =>
    f64Pattern (dequantised 0#32 (f64Value r.1) (f64Value r.2) 16#8) = r.1 ∧
      f64Pattern (dequantised 65535#32 (f64Value r.1) (f64Value r.2) 16#8) = r.2) (by decide +kernel) hrange
  obtain ⟨hlow, hhigh⟩ := hends
  exact ⟨by rw [exec_qdec hq, hlow], by rw [exec_qdec hq, hhigh]⟩

/-- Refutes O33: with one bit, from `1.5 · 2^971` to the largest finite value, the span is a tie rounded up by half of
the last spacing, `2^971`, so that adding the lower bound meets the tie below `2^1024` and overflows (log 15). -/
theorem not_qdecIsFinite : ¬ Obligations.QdecIsFinite := by
  intro h
  have hq : qvalid State.reset.cfg 0x7CA8000000000000#64 0x7FEFFFFFFFFFFFFF#64 1#8 = true := by decide +kernel
  have hinf : (f64Value (f64Pattern (dequantised 1#32 (f64Value 0x7CA8000000000000#64)
      (f64Value 0x7FEFFFFFFFFFFFFF#64) 1#8))).isFinite = false := by decide +kernel
  obtain ⟨x, hx, hfin⟩ := h State.reset 1#32 0x7CA8000000000000#64 0x7FEFFFFFFFFFFFFF#64 1#8 cfgValid_default hq
  rw [exec_qdec hq] at hx
  simp only [Host.Outcome.next.injEq, State.mk.injEq, Option.some.injEq, Response.ok.injEq, Result.real.injEq,
    true_and] at hx
  rw [hx, hfin] at hinf
  cases hinf

/-! ## There and back -/

/-- What the five ranges have beyond valid bounds: the span is exact, no shorter than a bound is long, and at least 1.0
(`exactSpan_protocolRanges`). -/
structure ExactSpan (mn mx : Flt) : Prop where
  span_eq : (gap mn mx : Int) = mx.units - mn.units
  low_le : mn.units.natAbs ≤ gap mn mx
  one_le : unitsPerOne ≤ gap mn mx

theorem exactSpan_protocolRanges {mn mx : F64} (h : (mn, mx) ∈ protocolRanges) :
    ExactSpan (f64Value mn) (f64Value mx) := by
  obtain ⟨hspan, hlow, hone⟩ := of_all_protocolRanges (p := fun r =>
    (gap (f64Value r.1) (f64Value r.2) : Int) = (f64Value r.2).units - (f64Value r.1).units ∧
      (f64Value r.1).units.natAbs ≤ gap (f64Value r.1) (f64Value r.2) ∧
      unitsPerOne ≤ gap (f64Value r.1) (f64Value r.2)) (by decide +kernel) h
  exact ⟨hspan, hlow, hone⟩

section

variable {mn mx v : Flt} {N : Nat} (hb : ValidBounds mn mx N) (hexact : ExactSpan mn mx)
include hb hexact

/-- QENC's quotient against the exact one, `(v − min) N / (max − min)`, here multiplied by the span. -/
theorem abs_quotient_sub_le (hlow : mn.units ≤ v.units) (hhigh : v.units ≤ mx.units) :
    |(codeUnits N (gap mn mx) (gap mn v) * gap mn mx : ℚ) - (v.units - mn.units) * (N * unitsPerOne)| ≤
      gap mn mx * (N * unitsPerOne) / 2 ^ 49 := by
  have hcode := abs_codeUnits_sub_le hb.code_pos hb.span_pos (gap_mono hhigh)
  have hround := abs_roundUnits_one_sub_le (v.units - mn.units).toNat
  have hcast : (((v.units - mn.units).toNat : ℕ) : ℚ) = v.units - mn.units := by
    rw [← Int.cast_natCast, Int.toNat_of_nonneg (by omega), Int.cast_sub]
  have hspan : (v.units - mn.units : ℚ) ≤ gap mn mx := by
    have h : v.units - mn.units ≤ gap mn mx := by rw [hexact.span_eq]; omega
    exact_mod_cast h
  have hNU : (0 : ℚ) ≤ N * unitsPerOne := by exact_mod_cast Nat.zero_le (N * unitsPerOne)
  rw [← gap, hcast] at hround
  have hscaled := abs_mul_le_mul hround hNU
  have hlength := mul_le_mul_of_nonneg_right hspan hNU
  rw [abs_le] at *
  obtain ⟨c1, c2⟩ := hcode
  obtain ⟨r1, r2⟩ := hscaled
  constructor <;> linarith

/-- A code against the exact quotient: half a code, and what the roundings add. -/
theorem abs_code_sub_le (rule : Tie) (hlow : mn.units ≤ v.units) (hhigh : v.units ≤ mx.units) :
    |(roundTieUnits rule (codeUnits N (gap mn mx) (gap mn v)) * gap mn mx : ℚ) - (v.units - mn.units) * N| ≤
      gap mn mx / 2 + gap mn mx * N / 2 ^ 49 := by
  have hU : (0 : ℚ) < unitsPerOne := by exact_mod_cast unitsPerOne_pos
  have hS : (0 : ℚ) ≤ gap mn mx := Nat.cast_nonneg _
  have hquot := abs_quotient_sub_le hb hexact hlow hhigh
  have htie := abs_roundTieUnits_sub_le rule (codeUnits N (gap mn mx) (gap mn v))
  have hscaled := abs_mul_le_mul htie hS
  refine le_of_mul_le_mul_right ?_ hU
  rw [← abs_of_pos hU, ← abs_mul, abs_of_pos hU]
  rw [abs_le] at *
  obtain ⟨q1, q2⟩ := hquot
  obtain ⟨t1, t2⟩ := hscaled
  constructor <;> linarith

/-- A decoded value against the exact one, `min + r (max − min) / N`, here multiplied by `N`. -/
theorem abs_decoded_sub_le {r : Nat} (hr : r ≤ N)
    (hfin : (fadd (.fin false (decodedUnits N (gap mn mx) r)) mn).isFinite = true) :
    |((fadd (.fin false (decodedUnits N (gap mn mx) r)) mn).units - mn.units : ℚ) * N - r * gap mn mx| ≤
      gap mn mx * N / 2 ^ 49 := by
  have hS : (0 : ℚ) ≤ gap mn mx := Nat.cast_nonneg _
  have hN : (0 : ℚ) ≤ N := Nat.cast_nonneg _
  have hlow : |(mn.units : ℚ)| ≤ gap mn mx := by
    rw [← Int.cast_abs, ← Nat.cast_natAbs]
    exact_mod_cast hexact.low_le
  have hdec := abs_decodedUnits_sub_le hb.code_pos hr (two_pow_le_unitsPerOne.trans hexact.one_le)
  have hsum : |((fadd (.fin false (decodedUnits N (gap mn mx) r)) mn).units -
      (decodedUnits N (gap mn mx) r + mn.units) : ℚ)| ≤ |(decodedUnits N (gap mn mx) r + mn.units : ℚ)| / 2 ^ 53 := by
    obtain ⟨na, ma, rfl⟩ := Flt.isFinite_iff.mp hb.finite_low
    simpa [Flt.units] using abs_units_fadd_sub_le hfin
  have hside := (abs_add_le (decodedUnits N (gap mn mx) r : ℚ) mn.units).trans (add_le_add_right hlow _)
  rw [Nat.abs_cast] at hside
  have hsum := hsum.trans (div_le_div_of_nonneg_right hside (by positivity))
  have hscaled := abs_mul_le_mul hsum hN
  have hrS : (r * gap mn mx : ℚ) ≤ N * gap mn mx := by exact_mod_cast Nat.mul_le_mul_right _ hr
  rw [abs_le] at hdec hscaled ⊢
  obtain ⟨d1, d2⟩ := hdec
  obtain ⟨s1, s2⟩ := hscaled
  constructor <;> linarith

end

theorem codeMax_qbits : codeMax 16#8 = 65535 := rfl

section

variable {s : State} {mn mx : F64} {raw : BitVec 32} (hc : cfgValid s.cfg = true)
  (hrange : (mn, mx) ∈ protocolRanges)
include hc hrange

/-- QDEC over one of the five ranges: a value inside, and how far it is from the exact one. -/
theorem exec_qdec_protocol (hraw : raw.toNat ≤ 65535) :
    ∃ x : F64, exec (.qdec raw mn mx 16#8) s = .next { s with resp := some (.ok (.real x)) } ∧
      inRange x mn mx = true ∧
      |((f64Value x).units - (f64Value mn).units : ℚ) * codeMax 16#8 -
          raw.toNat * gap (f64Value mn) (f64Value mx)| ≤
        gap (f64Value mn) (f64Value mx) * codeMax 16#8 / 2 ^ 49 := by
  have hq := qvalid_protocolRanges hc hrange
  have hb := validBounds_of_qvalid hc hq
  have hN : raw.toNat ≤ codeMax 16#8 := hraw
  have hx : f64Value (f64Pattern (dequantised raw (f64Value mn) (f64Value mx) 16#8)) =
      fadd (.fin false (decodedUnits (codeMax 16#8) (gap (f64Value mn) (f64Value mx)) raw.toNat)) (f64Value mn) := by
    rw [f64Value_f64Pattern (held_dequantised hc hq raw), hb.dequantised_eq, Nat.min_eq_left hN]
  have hinside : inRange (f64Pattern (dequantised raw (f64Value mn) (f64Value mx) 16#8)) mn mx = true := by
    rcases qdecValue_cases s.cfg raw mn mx 16#8 with ⟨h, -⟩ | ⟨-, h⟩
    · simp [hq] at h
    · exact inRange_of_qdecValue hc hrange h
  obtain ⟨hfin, -, -⟩ := hb.inside hinside
  refine ⟨_, exec_qdec hq, hinside, ?_⟩
  rw [hx] at hfin ⊢
  exact abs_decoded_sub_le hb (exactSpan_protocolRanges hrange) hN hfin

end

/-- Settles O24: the code is off by half a step at most, QDEC by none, and the roundings of both take less than the half
step left. -/
theorem quantizationRoundTrip : Obligations.QuantizationRoundTrip := by
  intro s value mn mx hc hrange hinside
  have hq := qvalid_protocolRanges hc hrange
  have hb := validBounds_of_qvalid hc hq
  have hexact := exactSpan_protocolRanges hrange
  obtain ⟨hfin, hlow, hhigh⟩ := hb.inside hinside
  have htoNat := hb.toNat_code s.cfg.roundTie hhigh
  have hcode := hb.roundTieUnits_le s.cfg.roundTie hhigh
  have herrq := abs_code_sub_le hb hexact s.cfg.roundTie hlow hhigh
  obtain ⟨x, hx, hxinside, herrx⟩ := exec_qdec_protocol hc hrange (htoNat.trans_le hcode)
  refine ⟨_, x, exec_qenc_code_inside hc hq hfin hlow hhigh, hx, (hb.inside hxinside).1, ?_⟩
  rw [htoNat] at herrx
  rw [← hexact.span_eq, Int.natAbs_natCast]
  have hS : (0 : ℚ) ≤ gap (f64Value mn) (f64Value mx) := Nat.cast_nonneg _
  rw [codeMax_qbits] at herrq herrx
  qify
  rw [← abs_of_pos (show (0 : ℚ) < 65535 by norm_num), ← abs_mul]
  rw [abs_le] at herrq herrx ⊢
  obtain ⟨q1, q2⟩ := herrq
  obtain ⟨x1, x2⟩ := herrx
  constructor <;> linarith

/-- Settles O25: QENC of the decoded value meets the code within what the roundings add. -/
theorem codesSurviveDecoding : Obligations.CodesSurviveDecoding := by
  intro s raw mn mx hc hrange hraw
  have hq := qvalid_protocolRanges hc hrange
  have hb := validBounds_of_qvalid hc hq
  have hexact := exactSpan_protocolRanges hrange
  obtain ⟨x, hx, hinside, herrx⟩ := exec_qdec_protocol hc hrange hraw
  obtain ⟨hfin, hlow, hhigh⟩ := hb.inside hinside
  refine ⟨x, hx, ?_⟩
  have hround : roundTieUnits s.cfg.roundTie (codeUnits (codeMax 16#8) (gap (f64Value mn) (f64Value mx))
      (gap (f64Value mn) (f64Value x))) = raw.toNat := by
    refine roundTieUnits_of_abs_lt _ hb.span_pos ?_
    have herrq := abs_quotient_sub_le hb hexact hlow hhigh
    have hU : (0 : ℚ) < unitsPerOne := by exact_mod_cast unitsPerOne_pos
    have hS : (0 : ℚ) < gap (f64Value mn) (f64Value mx) := by exact_mod_cast hb.span_pos
    have hscaled := abs_mul_le_mul herrx hU.le
    have hpos := mul_pos hU hS
    rw [codeMax_qbits] at herrq hscaled ⊢
    rw [abs_lt]
    rw [abs_le] at herrq hscaled
    obtain ⟨q1, q2⟩ := herrq
    obtain ⟨x1, x2⟩ := hscaled
    constructor <;> linarith
  rw [exec_qenc_code_inside hc hq hfin hlow hhigh, hround, BitVec.ofNat_toNat, BitVec.setWidth_eq]

end Sys2Proof.Machine
end

section
/-! SUPPORT. The statements about the arbitration identifier (spec/41_arbitration_id.md): IDPACK, IDUNPK_REQ and
IDUNPK_FB answer every operand, so each statement is one about the identifier's fields. -/

namespace Sys2Proof.Machine

/-! ## The request layout -/

/-- The fields of the request layout do not overlap, so their sum is their or (R102). -/
theorem packId_toNat_eq_or (o : BitVec 5) (d : BitVec 16) (t : Byte) :
    (packId o d t).toNat = (o.toNat <<< 24) ||| (d.toNat <<< 8) ||| t.toNat := by
  rw [packId, BitVec.toNat_append, BitVec.toNat_append, Nat.shiftLeft_or_distrib, ← Nat.shiftLeft_add]

/-- Settles O34. -/
theorem idpackBuildsNumber : Obligations.IdpackBuildsNumber := by
  refine ⟨fun s opcode data16 target => ?_, fun p hp => by simp [decodeOp, hp]⟩
  exact ⟨packId opcode data16 target, exec_eq_respond (.idpack opcode data16 target) s,
    packId_toNat opcode data16 target, packId_toNat_eq_or opcode data16 target⟩

/-- Settles O35: the three fields cover the identifier, and each is read where it was packed. -/
theorem idunpkReqInvertsIdpack : Obligations.IdunpkReqInvertsIdpack := by
  refine ⟨fun s id => ?_, fun s opcode data16 target => ?_, fun p hp => by simp [decodeOp, hp]⟩
  · have hpack := exec_eq_respond (.idpack (idOpcode id) (idData16 id) (idLow id)) s
    rw [answer, packId_fields] at hpack
    exact ⟨idOpcode id, idData16 id, idLow id, exec_eq_respond (.idunpkReq id) s, idOpcode_toNat id,
      idData16_toNat id, idLow_toNat id, hpack⟩
  · have hunpack := exec_eq_respond (.idunpkReq (packId opcode data16 target)) s
    rw [answer, idOpcode_packId, idData16_packId, idLow_packId] at hunpack
    exact ⟨packId opcode data16 target, exec_eq_respond (.idpack opcode data16 target) s, hunpack⟩

/-! ## The feedback layout -/

/-- The five fields of the feedback layout cover the identifier (R104). -/
theorem feedbackFields_append (id : Ident) : idOpcode id ++ idMode id ++ idFaults id ++ idMid id ++ idLow id = id := by
  unfold idOpcode idMode idFaults idMid idLow
  rw [BitVec.extractLsb'_append_extractLsb'_eq_extractLsb' (show 24 = 22 + 2 from rfl),
    BitVec.extractLsb'_append_extractLsb'_eq_extractLsb' (show 22 = 16 + 6 from rfl),
    BitVec.extractLsb'_append_extractLsb'_eq_extractLsb' (show 16 = 8 + 8 from rfl),
    BitVec.extractLsb'_append_extractLsb'_eq_extractLsb' (show 8 = 0 + 8 from rfl)]
  exact BitVec.extractLsb'_eq_self

/-- Fault bit `k` is identifier bit `16 + k` (R52, R104). -/
theorem getLsbD_idFaults (id : Ident) {k : Nat} (hk : k < 6) : (idFaults id).getLsbD k = id.getLsbD (16 + k) := by
  simp [idFaults, hk]

/-- At the default place `magnetic` is fault bit 3 (R15, R104). -/
theorem faultFlags_magnetic_default {c : Cfg} (h : c.magneticBit = 19#5) (id : Ident) :
    (faultFlags c id).magnetic = (idFaults id).getLsbD 3 := by
  rw [getLsbD_idFaults id (by decide), faultFlags, h]
  rfl

/-- Settles O36: the fields by position, and the fault flags as bits of the `faults` field. -/
theorem idunpkFbFields : Obligations.IdunpkFbFields := by
  refine ⟨fun s id => ?_, rfl, rfl, rfl, rfl, fun p hp => by simp [decodeOp, hp]⟩
  have hbit (k : Nat) (hk : k < 6) : id.getLsbD (16 + k) = (idFaults id).getLsbD k := (getLsbD_idFaults id hk).symm
  exact ⟨idOpcode id, idFaults id, idMode id, idMid id, idLow id, exec_eq_respond (.idunpkFb id) s,
    idOpcode_toNat id, idMode_toNat id, idFaults_toNat id, idMid_toNat id, idLow_toNat id,
    (feedbackFields_append id).symm, hbit 0 (by decide), hbit 1 (by decide), hbit 2 (by decide), hbit 4 (by decide),
    rfl, fun h => faultFlags_magnetic_default h id⟩

end Sys2Proof.Machine
end

section
/-! SUPPORT. The statements about the parameter table (spec/42_parameter_table.md): PTLOOK, the value field of a
parameter write, and the number a value is for the bounds check. -/

namespace Sys2Proof.Machine

/-! ## The lookup in a table of distinct indices -/

/-- The indices of a table are pairwise distinct (R118) when its list of indices repeats none. -/
theorem distinctIndices_iff_nodup (table : List Descriptor) :
    distinctIndices table = true ↔ (table.map Descriptor.index).Nodup := by
  induction table with
  | nil => simp [distinctIndices]
  | cons d ds ih => simp [distinctIndices, ih]

theorem lookup_of_mem {table : List Descriptor} (h : distinctIndices table = true) {d : Descriptor}
    (hd : d ∈ table) : lookup table d.index = some d := by
  rcases lookup_cases table d.index with ⟨e, he, hindex, hlookup⟩ | ⟨hnone, -⟩
  · rw [hlookup, List.inj_on_of_nodup_map ((distinctIndices_iff_nodup table).mp h) he hd hindex]
  · exact absurd rfl (hnone d hd)

theorem lookup_of_forall_ne {table : List Descriptor} {index : BitVec 16} (h : ∀ d ∈ table, d.index ≠ index) :
    lookup table index = none := by
  rcases lookup_cases table index with ⟨d, hd, hindex, -⟩ | ⟨-, hlookup⟩
  · exact absurd hindex (h d hd)
  · exact hlookup

/-- Settles O37: distinct indices make the looked-up descriptor the one with the index, and an absent index finds
none. -/
theorem ptlookFinds : Obligations.PtlookFinds := by
  refine ⟨fun s d hdistinct hd => ?_, fun s index habsent => ?_, fun fmt bounds => ⟨rfl, rfl, rfl, rfl⟩,
    rfl, rfl, rfl, rfl, fun p hp => by simp [decodeOp, hp]⟩
  · rw [exec_eq_respond, answer, lookup_of_mem hdistinct hd]
    rfl
  · rw [exec_eq_respond, answer, lookup_of_forall_ne habsent]
    rfl

/-! ## The value field -/

theorem toNat_valByte (v : BitVec 32) (k : Nat) : (valByte v k).toNat = v.toNat / 2 ^ (8 * k) % 256 := by
  rw [valByte, BitVec.extractLsb'_toNat, Nat.shiftRight_eq_div_pow]

/-- Settles O38: the bytes are those of `valByte`, and each format and order names its own. -/
theorem valueFieldBytes : Obligations.ValueFieldBytes := by
  intro v order
  refine ⟨valByte v 0, valByte v 1, valByte v 2, valByte v 3, ?_, toNat_valByte v 1, toNat_valByte v 2, ?_,
    ?_, rfl, rfl, rfl, rfl, rfl, rfl⟩
  · rw [toNat_valByte, Nat.mul_zero, Nat.pow_zero, Nat.div_one]
  · have hv := v.isLt
    rw [toNat_valByte]
    omega
  · cases order <;> rfl

/-- The low two bytes of a value, as a number. -/
theorem toNat_valBytes_low (v : BitVec 32) : (valByte v 1 ++ valByte v 0).toNat = v.toNat % 2 ^ 16 := by
  rw [toNat_append_bytes, toNat_valByte, toNat_valByte]
  omega

/-- The four bytes of a value, most significant first, are the value. -/
theorem valBytes_append (v : BitVec 32) : valByte v 3 ++ valByte v 2 ++ valByte v 1 ++ valByte v 0 = v := by
  unfold valByte
  rw [BitVec.extractLsb'_append_extractLsb'_eq_extractLsb' (show 8 * 3 = 8 * 2 + 8 from rfl),
    BitVec.extractLsb'_append_extractLsb'_eq_extractLsb' (show 8 * 2 = 8 * 1 + 8 from rfl),
    BitVec.extractLsb'_append_extractLsb'_eq_extractLsb' (show 8 * 1 = 8 * 0 + 8 from rfl)]
  exact BitVec.extractLsb'_eq_self

theorem valueFits_u8_iff (v : BitVec 32) : valueFits .u8 v = true ↔ v.toNat ≤ 255 := by simp [valueFits]

theorem valueFits_i16_iff (v : BitVec 32) : valueFits .i16 v = true ↔ -32768 ≤ v.toInt ∧ v.toInt ≤ 32767 := by
  simp [valueFits]

/-- A value that fits `u8` is its low byte, extended with zeros. -/
theorem zeroExtend_valByte {v : BitVec 32} (h : valueFits .u8 v = true) : (valByte v 0).zeroExtend 32 = v := by
  rw [valueFits_u8_iff] at h
  apply BitVec.eq_of_toNat_eq
  rw [BitVec.zeroExtend, BitVec.toNat_setWidth, toNat_valByte]
  omega

/-- A value that fits `i16` is its low two bytes, extended with their sign. -/
theorem signExtend_valBytes {v : BitVec 32} (h : valueFits .i16 v = true) :
    (valByte v 1 ++ valByte v 0).signExtend 32 = v := by
  rw [valueFits_i16_iff] at h
  apply BitVec.eq_of_toInt_eq
  rw [BitVec.toInt_signExtend_of_le (by decide), BitVec.toInt_eq_toNat_bmod, toNat_valBytes_low]
  rw [BitVec.toInt_eq_toNat_bmod] at h ⊢
  have hv := v.isLt
  simp only [Int.bmod_def] at h ⊢
  omega

/-- Settles O39: reading back puts the bytes together in the order they were written, and the extension gives the bits
that a value of the format's width leaves out. -/
theorem valueFieldReadsBack : Obligations.ValueFieldReadsBack := by
  intro order fmt v hfits
  cases fmt with
  | u8 => cases order <;> exact zeroExtend_valByte hfits
  | i16 => cases order <;> exact signExtend_valBytes hfits
  | i32 | f32 => cases order <;> exact valBytes_append v

/-! ## The number a value is -/

@[simp] theorem isFinite_fltOfInt (z : Int) : (fltOfInt z).isFinite = true := rfl

theorem units_fltOfInt (z : Int) : (fltOfInt z).units = z * unitsPerOne := by
  rw [fltOfInt, Flt.units, Nat.cast_mul]
  rcases lt_or_ge z 0 with h | h
  · rw [if_pos (decide_eq_true h), Int.ofNat_natAbs_of_nonpos h.le, Int.neg_mul, Int.neg_neg]
  · rw [decide_eq_false (not_lt.mpr h), if_neg Bool.false_ne_true, Int.natAbs_of_nonneg h]

/-- The exponent and the fraction of a binary32 pattern as numbers (R81). -/
theorem f32Exponent_eq (v : F32) : f32Exponent v = v.toNat / 2 ^ 23 % 256 := by
  rw [f32Exponent, BitVec.extractLsb'_toNat, Nat.shiftRight_eq_div_pow]

theorem f32Fraction_eq (v : F32) : f32Fraction v = v.toNat % 2 ^ 23 := by
  rw [f32Fraction, BitVec.extractLsb'_toNat, Nat.shiftRight_zero]

theorem f32Value_infinity {v : F32} (he : f32Exponent v = 255) (hf : f32Fraction v = 0) :
    f32Value v = .inf (f32Sign v) := by
  rw [f32Value, if_pos he, if_pos hf]

theorem f32Value_nan {v : F32} (he : f32Exponent v = 255) (hf : f32Fraction v ≠ 0) : f32Value v = .nan := by
  rw [f32Value, if_pos he, if_neg hf]

theorem f32Value_subnormal {v : F32} (he : f32Exponent v = 0) :
    f32Value v = .fin (f32Sign v) (f32Fraction v * 2 ^ 925) := by
  rw [f32Value, if_neg (by omega), if_pos he]

theorem f32Value_normal {v : F32} (he : f32Exponent v ≠ 255) (he' : f32Exponent v ≠ 0) :
    f32Value v = .fin (f32Sign v) ((2 ^ 23 + f32Fraction v) * 2 ^ (f32Exponent v - 1) * 2 ^ 925) := by
  rw [f32Value, if_neg he, if_neg he']

/-- A significand that fits binary64's 53 bits, at a shift that keeps it below the overflow. -/
theorem held_significand (neg : Bool) {sig k : Nat} (hsig : sig < 2 ^ 53) (hk : 53 + k ≤ 2098) :
    (Flt.fin neg (sig * 2 ^ k)).held := by
  refine held_fin ⟨sig, k, hsig, rfl⟩ ?_
  calc sig * 2 ^ k
      < 2 ^ 53 * 2 ^ k := Nat.mul_lt_mul_of_pos_right hsig (Nat.two_pow_pos k)
    _ = 2 ^ (53 + k) := (Nat.pow_add ..).symm
    _ ≤ unitsOverflow := pow_le_pow_right₀ one_le_two hk

/-- binary64 holds every binary32 value: 24 significant bits, and the greatest exponent far below the overflow (R81,
R116). -/
theorem held_f32Value {v : F32} (h : (f32Value v).isNaN = false) : (f32Value v).held := by
  have hf : f32Fraction v < 2 ^ 23 := (v.extractLsb' 0 23).isLt
  have he : f32Exponent v < 2 ^ 8 := (v.extractLsb' 23 8).isLt
  by_cases hmax : f32Exponent v = 255
  · by_cases hzero : f32Fraction v = 0
    · rw [f32Value_infinity hmax hzero]
      exact held_inf _
    · rw [f32Value_nan hmax hzero] at h
      cases h
  · by_cases hmin : f32Exponent v = 0
    · rw [f32Value_subnormal hmin]
      exact held_significand _ (by omega) (by omega)
    · rw [f32Value_normal hmax hmin, Nat.mul_assoc, ← Nat.pow_add]
      exact held_significand _ (by omega) (by omega)

/-- Settles O41: the integer formats are whole numbers of units, and the binary32 pattern is read by its exponent
field. -/
theorem valueReadings : Obligations.ValueReadings := by
  intro v
  rw [← f32Exponent_eq, ← f32Fraction_eq]
  refine ⟨valueFits_u8_iff v, valueFits_i16_iff v, rfl, rfl, rfl, units_fltOfInt v.toNat, rfl, units_fltOfInt v.toInt,
    rfl, units_fltOfInt v.toInt, rfl, f32Value_infinity, fun he hf => ?_, f32Value_subnormal, f32Value_normal,
    fun neg mag hfin => ?_⟩
  · rw [f32Value_nan he hf]
    rfl
  · have hnan : (f32Value v).isNaN = false := by rw [hfin]; rfl
    obtain ⟨-, hheld⟩ := held_f32Value hnan
    exact hheld neg mag hfin

end Sys2Proof.Machine
end

section
/-! SUPPORT. What the frame builder answers, said once: the fields of a built identifier and payload, the validation of a
parameter write, and the codes of a motion command (spec/43_frame_builder.md R130 to R136). -/

namespace Sys2Proof.Machine

/-! ## The fields of a built frame -/

/-- `data16` of a built identifier is the master id below eight zero bits (R59 (a), R130). -/
theorem idData16_builtId (w : WireOpcode) (master target : Byte) :
    idData16 (builtId w master target) = 0#8 ++ master := by
  rw [builtId, idData16_packId]
  apply BitVec.eq_of_toNat_eq
  rw [masterData16_toNat, toNat_append_bytes, BitVec.toNat_zero, Nat.zero_mul, Nat.zero_add]

/-- A built identifier unpacked in the request layout (R103, R130). -/
theorem exec_idunpkReq_builtId (s : State) (w : WireOpcode) (master target : Byte) :
    exec (.idunpkReq (builtId w master target)) s =
      .next { s with resp := some (.ok (.requestFields (wireCode w) (0#8 ++ master) target)) } := by
  rw [exec_eq_respond, answer, idOpcode_builtId, idData16_builtId, builtId, idLow_packId]
  rfl

theorem toNat_highByte (v : BitVec 16) : (BitVec.ofNat 8 (v.toNat / 256)).toNat = v.toNat / 256 := by
  rw [BitVec.toNat_ofNat]
  omega

/-- The payload `MOTION` of one code four times, byte by byte (R55). -/
theorem motionBuffer_repeat (c : Cfg) (hi lo : Byte) :
    motionBuffer c (hi ++ lo) (hi ++ lo) (hi ++ lo) (hi ++ lo) = match c.mcOrder with
      | .little => ⟨lo, hi, lo, hi, lo, hi, lo, hi⟩
      | .big => ⟨hi, lo, hi, lo, hi, lo, hi, lo⟩ := by
  unfold motionBuffer writeU16
  cases c.mcOrder
  · simp only [toOrd, toLe_append_bytes]
    rfl
  · simp only [toOrd, toBe_append_bytes]
    rfl

/-- The payload `MOTION` of four codes whose two bytes are equal is the same in both orders. -/
theorem motionBuffer_repeat_byte (c : Cfg) (b : Byte) :
    motionBuffer c (b ++ b) (b ++ b) (b ++ b) (b ++ b) = ⟨b, b, b, b, b, b, b, b⟩ := by
  rw [motionBuffer_repeat]
  cases c.mcOrder <;> rfl

/-! ## Completed transactions -/

/-- A transaction that completes with a result has it for its answer. -/
theorem answer_of_exec {i : Instr} {s t : State} {r : Result} (h : exec i s = .next t)
    (hresp : t.resp = some (.ok r)) : answer s.cfg i = .ok r := by
  obtain rfl := Host.Outcome.next.inj ((exec_eq_respond i s).symm.trans h)
  cases ha : answer s.cfg i with
  | ok r' => simpa [ha] using hresp
  | error e => simp [ha] at hresp

/-- The identifier of a frame known to be a built one, unpacked in the request layout (R130). -/
theorem exec_idunpkReq_of_eq_frame (s : State) {id : Ident} {dlc dlc' : BitVec 4} {P P' : Buffer} {w : WireOpcode}
    {master target : Byte} (h : Result.frame id dlc P = .frame (builtId w master target) dlc' P') :
    exec (.idunpkReq id) s =
      .next { s with resp := some (.ok (.requestFields (wireCode w) (0#8 ++ master) target)) } := by
  obtain ⟨rfl, -, -⟩ := Result.frame.inj h
  exact exec_idunpkReq_builtId s w master target

/-! ## The validation of a parameter write -/

section

variable {s : State} {target master : Byte} {index : BitVec 16} {fmt : Fmt} {bounds : Option Bounds}
  {v : BitVec 32} {c : Cfg} {b : Bounds}

/-- A write that is validated is built (R134). -/
theorem exec_fbWrparam_ok (h : pvalidate s.cfg fmt bounds v = .ok ()) :
    exec (.fbWrparam target master index fmt bounds v) s = .next { s with resp := some (.ok
      (writeFrame s.cfg master target index (serialise s.cfg.pvalOrder fmt v))) } := by
  rw [exec_eq_respond, answer, h]
  rfl

/-- A write that is refused answers the status of its validation (R134). -/
theorem exec_fbWrparam_error {e : Raise} (h : pvalidate s.cfg fmt bounds v = .error e) :
    exec (.fbWrparam target master index fmt bounds v) s = .next { s with resp := some (.raised e) } := by
  rw [exec_eq_respond, answer, h]
  rfl

/-- Bounds that are no valid interval are refused first (R120). -/
theorem pvalidate_invalidBounds (hq : qvalid c b.min b.max Config.qbits = false) :
    pvalidate c fmt (some b) v = .error .invalidOperand := by
  rcases pvalidate_bounded c fmt b v with ⟨-, h⟩ | ⟨hq', -⟩ | ⟨hq', -⟩
  · exact h
  all_goals simp [hq] at hq'

/-- A value that does not fit its format is refused next (R120). -/
theorem pvalidate_misfit (hq : ∀ b, bounds = some b → qvalid c b.min b.max Config.qbits = true)
    (hfits : valueFits fmt v = false) : pvalidate c fmt bounds v = .error .rangeError := by
  cases bounds with
  | none => simp [pvalidate_unbounded, hfits]
  | some b =>
    rcases pvalidate_bounded c fmt b v with ⟨hq', -⟩ | ⟨-, -, h⟩ | ⟨-, hfits', -⟩
    · simp [hq b rfl] at hq'
    · exact h
    · simp [hfits] at hfits'

/-- A value not within valid bounds is refused last (R120). -/
theorem pvalidate_outside (hq : qvalid c b.min b.max Config.qbits = true)
    (hout : ¬((f64Value b.min).le (valueNum fmt v) = true ∧ (valueNum fmt v).le (f64Value b.max) = true)) :
    pvalidate c fmt (some b) v = .error .rangeError := by
  rcases pvalidate_bounded c fmt b v with ⟨hq', -⟩ | ⟨-, -, h⟩ | ⟨-, -, hlow, hhigh, -⟩
  · simp [hq] at hq'
  · exact h
  · exact absurd ⟨hlow, hhigh⟩ hout

/-- Every other value is accepted (R120). -/
theorem pvalidate_within
    (hb : ∀ b, bounds = some b → qvalid c b.min b.max Config.qbits = true ∧
      (f64Value b.min).le (valueNum fmt v) = true ∧ (valueNum fmt v).le (f64Value b.max) = true)
    (hfits : valueFits fmt v = true) : pvalidate c fmt bounds v = .ok () := by
  cases bounds with
  | none => simp [pvalidate_unbounded, hfits]
  | some b =>
    obtain ⟨hq, hwithin⟩ := hb b rfl
    rcases pvalidate_bounded c fmt b v with ⟨hq', -⟩ | ⟨-, hout, -⟩ | ⟨-, -, -, -, h⟩
    · simp [hq] at hq'
    · exact absurd ⟨hfits, hwithin⟩ hout
    · exact h

/-- A write that completes has its frame for its answer (R134). -/
theorem eq_writeFrame_of_answer {r : Result} (h : answer c (.fbWrparam target master index fmt bounds v) = .ok r) :
    r = writeFrame c master target index (serialise c.pvalOrder fmt v) := by
  rw [answer] at h
  cases hv : pvalidate c fmt bounds v <;> rw [hv] at h <;> cases h
  rfl

end

/-! ## The codes of a motion command -/

/-- The operands of FB_MOTION, each with its range, in the order they are examined in (R136, R191). -/
def motionOperands (torque angle velocity kp kd : F64) : List (F64 × F64 × F64) :=
  [(torque, Config.tMin, Config.tMax), (angle, Config.pMin, Config.pMax), (velocity, Config.vMin, Config.vMax),
   (kp, Config.kpMin, Config.kpMax), (kd, Config.kdMin, Config.kdMax)]

section

variable {s : State} {c : Cfg} {x mn mx : F64}

/-- A protocol field is QENC's code over its range at 16 bits, narrowed (R59 (b), (c)). -/
theorem quantField_of_exec_qenc {q : BitVec 32}
    (h : exec (.qenc x mn mx 16#8) s = .next { s with resp := some (.ok (.code q)) }) :
    quantField s.cfg x mn mx = .ok (q.truncate 16) := by
  have hanswer := answer_of_exec h rfl
  rw [answer] at hanswer
  rcases qencValue_cases s.cfg (f64Value x) mn mx 16#8 with ⟨-, hv⟩ | ⟨-, -, hv⟩ <;> rw [hv] at hanswer
  · cases hanswer
  · obtain rfl := Result.code.inj (Except.ok.inj hanswer)
    exact congrArg (fun a : Except Raise (BitVec 32) => a >>= fun q => pure (q.truncate 16)) hv

/-- A number has a code of 16 bits over each of the five ranges (R136). -/
theorem exec_qenc_protocol (hc : cfgValid s.cfg = true) (mn mx : F64)
    (hrange : (mn, mx) ∈ protocolRanges) (hx : (f64Value x).isNaN = false) :
    ∃ (q : BitVec 32) (w : BitVec 16),
      exec (.qenc x mn mx 16#8) s = .next { s with resp := some (.ok (.code q)) } ∧
      quantField s.cfg x mn mx = .ok w ∧ w.toNat = q.toNat := by
  obtain ⟨hcode, -⟩ := qencAnswersCode
  obtain ⟨q, -, -, hq, -, -, hle⟩ := hcode s x mn mx 16#8 hc (qvalid_protocolRanges hc hrange) hx
  refine ⟨q, q.truncate 16, hq, quantField_of_exec_qenc hq, ?_⟩
  rw [BitVec.truncate, BitVec.toNat_setWidth, Nat.mod_eq_of_lt]
  exact Nat.lt_succ_of_le hle

/-- A NaN ends FB_MOTION, and so does a refusal of what comes after a field (R136, R191). -/
theorem quantField_bind_invalid {f : BitVec 16 → Except Raise Result}
    (h : (f64Value x).isNaN = true ∨ ∀ w, f w = .error .invalidOperand) :
    (quantField c x mn mx >>= f) = .error .invalidOperand := by
  rcases qencValue_cases c (f64Value x) mn mx Config.qbits with ⟨-, hv⟩ | ⟨-, hnan, hv⟩ <;> rw [quantField, hv]
  · rfl
  · exact h.resolve_left (by simp [hnan]) _

/-- Five codes are put together (R136). -/
theorem exec_fbMotion_ok {target : Byte} {torque angle velocity kp kd : F64} {tq aq vq pq dq : BitVec 16}
    (ht : quantField s.cfg torque Config.tMin Config.tMax = .ok tq)
    (ha : quantField s.cfg angle Config.pMin Config.pMax = .ok aq)
    (hv : quantField s.cfg velocity Config.vMin Config.vMax = .ok vq)
    (hp : quantField s.cfg kp Config.kpMin Config.kpMax = .ok pq)
    (hd : quantField s.cfg kd Config.kdMin Config.kdMax = .ok dq) :
    exec (.fbMotion target torque angle velocity kp kd) s =
      .next { s with resp := some (.ok (motionFrame s.cfg target tq aq vq pq dq)) } := by
  rw [exec_eq_respond, answer, ht, ha, hv, hp, hd]
  rfl

/-- Five operands with the same code give a frame of that code (R136). -/
theorem exec_fbMotion_of_same_code (target : Byte) {torque angle velocity kp kd : F64} {w : BitVec 16}
    (h : ∀ {x mn mx}, (x, mn, mx) ∈ motionOperands torque angle velocity kp kd → quantField s.cfg x mn mx = .ok w) :
    exec (.fbMotion target torque angle velocity kp kd) s =
      .next { s with resp := some (.ok (motionFrame s.cfg target w w w w w)) } := by
  refine exec_fbMotion_ok (h ?_) (h ?_) (h ?_) (h ?_) (h ?_) <;> simp [motionOperands]

/-- In the middle of each range QENC's quotient is the tie `32767.5` (R84, R136). -/
theorem quotient_of_middle
    (h : (x, mn, mx) ∈ motionOperands 0x0000000000000000#64 0x0000000000000000#64 0x0000000000000000#64
      0x406F400000000000#64 0x4004000000000000#64) :
    (mn, mx) ∈ protocolRanges ∧ (f64Value x).isNaN = false ∧
    quotient (clamp (f64Value x) (f64Value mn) (f64Value mx)) (f64Value mn) (f64Value mx) 16#8 =
      .fin false ((2 * 32767 + 1) * 2 ^ 1073) := by
  simp only [motionOperands, List.mem_cons, List.not_mem_nil, or_false, Prod.mk.injEq] at h
  rcases h with ⟨rfl, rfl, rfl⟩ | ⟨rfl, rfl, rfl⟩ | ⟨rfl, rfl, rfl⟩ | ⟨rfl, rfl, rfl⟩ | ⟨rfl, rfl, rfl⟩ <;>
    exact ⟨by simp [protocolRanges], by decide +kernel, by decide +kernel⟩

variable (hc : cfgValid s.cfg = true)
include hc

/-- The least code of each range (R89 L2). -/
theorem quantField_min
    (h : (x, mn, mx) ∈ motionOperands Config.tMin Config.pMin Config.vMin Config.kpMin Config.kdMin) :
    quantField s.cfg x mn mx = .ok (0#8 ++ 0#8) := by
  obtain ⟨r, hrange, heq⟩ := List.mem_map.mp (show _ ∈ protocolRanges.map fun r => (r.1, r.1, r.2) from h)
  cases heq
  exact quantField_of_exec_qenc (qencEndPoints s r.1 r.2 16#8 hc (qvalid_protocolRanges hc hrange)).1

/-- The greatest code of each range (R89 L2). -/
theorem quantField_max
    (h : (x, mn, mx) ∈ motionOperands Config.tMax Config.pMax Config.vMax Config.kpMax Config.kdMax) :
    quantField s.cfg x mn mx = .ok (255#8 ++ 255#8) := by
  obtain ⟨r, hrange, heq⟩ := List.mem_map.mp (show _ ∈ protocolRanges.map fun r => (r.2, r.1, r.2) from h)
  cases heq
  exact quantField_of_exec_qenc (qencEndPoints s r.1 r.2 16#8 hc (qvalid_protocolRanges hc hrange)).2

/-- The integer above the tie is even, so both tie rules give it (R84, R136). -/
theorem quantField_middle
    (h : (x, mn, mx) ∈ motionOperands 0x0000000000000000#64 0x0000000000000000#64 0x0000000000000000#64
      0x406F400000000000#64 0x4004000000000000#64) :
    quantField s.cfg x mn mx = .ok (128#8 ++ 0#8) := by
  obtain ⟨hrange, hx, hquot⟩ := quotient_of_middle h
  have hexec := exec_qenc (qvalid_protocolRanges hc hrange) hx
  rw [hquot, roundTie_half 32767 _ (two_mul_half_units _), if_neg fun h => absurd h.2 (by decide)] at hexec
  exact quantField_of_exec_qenc hexec

end

end Sys2Proof.Machine
end

section
/-! SUPPORT. The statements about the frame builder (spec/43_frame_builder.md). -/

namespace Sys2Proof.FrameBuilder

open Machine

/-! ## The frames of R131 to R135 -/

/-- Settles O42. -/
theorem enableFrame : Obligations.EnableFrame :=
  ⟨fun s target master => ⟨_, exec_eq_respond (.fbEnable target master) s, builtId_toNat .motorEnable master target⟩,
    fun p hp => by simp [decodeOp, hp]⟩

/-- Settles O43. -/
theorem disableFrame : Obligations.DisableFrame :=
  ⟨fun s target master => ⟨_, exec_eq_respond (.fbDisable target master) s, builtId_toNat .motorStop master target⟩,
    fun p hp => by simp [decodeOp, hp]⟩

/-- Settles O44. -/
theorem setZeroFrame : Obligations.SetZeroFrame :=
  ⟨fun s target master =>
      ⟨_, exec_eq_respond (.fbSetzero target master) s, builtId_toNat .setMechanicalZero master target⟩,
    fun p hp => by simp [decodeOp, hp]⟩

/-- Settles O45: the index bytes are those of the payload `PARAM`, the value field is zero. -/
theorem rdparamFrame : Obligations.RdparamFrame := by
  refine ⟨fun s target master index => ?_, fun p hp => by simp [decodeOp, hp]⟩
  refine ⟨builtId .singleParamRead master target, BitVec.ofNat 8 index.toNat, BitVec.ofNat 8 (index.toNat / 256), ?_,
    builtId_toNat .singleParamRead master target, BitVec.toNat_ofNat .., toNat_highByte index⟩
  have hexec := exec_eq_respond (.fbRdparam target master index) s
  rw [answer, readFrame, paramBuffer_bytes] at hexec
  exact hexec

/-- Settles O40: the validation decides, and what passes it is built. -/
theorem wrparamBuildsOrRefuses : Obligations.WrparamBuildsOrRefuses := by
  refine ⟨fun s target master index fmt bounds v => ⟨?_, fun hq hfits => ?_, ?_, fun hb hfits => ?_⟩,
    rfl, rfl, rfl, rfl, fun p hp => by simp [decodeOp, hp, boundsOf]⟩
  · rintro ⟨b, rfl, hq⟩
    exact exec_fbWrparam_error (pvalidate_invalidBounds hq)
  · exact exec_fbWrparam_error (pvalidate_misfit hq hfits)
  · rintro ⟨b, rfl, hq, hout⟩ -
    exact exec_fbWrparam_error (pvalidate_outside hq hout)
  · refine ⟨builtId .singleParamWrite master target, BitVec.ofNat 8 index.toNat,
      BitVec.ofNat 8 (index.toNat / 256), _, ?_, builtId_toNat .singleParamWrite master target,
      BitVec.toNat_ofNat .., toNat_highByte index, rfl⟩
    have hexec := exec_fbWrparam_ok (target := target) (master := master) (index := index)
      (pvalidate_within hb hfits)
    rw [writeFrame, paramBuffer_bytes] at hexec
    exact hexec

/-- Settles O49: the frame a builder completes with carries the identifier of its wire opcode. -/
theorem builtIdentifiersReadBack : Obligations.BuiltIdentifiersReadBack := by
  intro s t target master id dlc P hresp
  refine ⟨fun h => ?_, fun h => ?_, fun h => ?_, fun index h => ?_, fun index fmt bounds v h => ?_⟩ <;>
    have hanswer := answer_of_exec h hresp
  · exact exec_idunpkReq_of_eq_frame s (w := .motorEnable) (Except.ok.inj hanswer).symm
  · exact exec_idunpkReq_of_eq_frame s (w := .motorStop) (Except.ok.inj hanswer).symm
  · exact exec_idunpkReq_of_eq_frame s (w := .setMechanicalZero) (Except.ok.inj hanswer).symm
  · exact exec_idunpkReq_of_eq_frame s (w := .singleParamRead) (Except.ok.inj hanswer).symm
  · exact exec_idunpkReq_of_eq_frame s (w := .singleParamWrite) (eq_writeFrame_of_answer hanswer)

/-! ## The motion-control frame (R136) -/

/-- Settles O46: each number has its code, and the frame is put together from the five; a NaN is refused at its own
field, and a field refused before it raises the same status. -/
theorem motionFrame : Obligations.MotionFrame := by
  refine ⟨fun s target torque angle velocity kp kd hc ht ha hv hp hd => ?_,
    fun s target torque angle velocity kp kd hnan => ?_, fun p hp => by simp [decodeOp, hp]⟩
  · obtain ⟨tq, tw, htq, htw, ht⟩ := exec_qenc_protocol hc Config.tMin Config.tMax (by simp [protocolRanges]) ht
    obtain ⟨aq, aw, haq, haw, ha⟩ := exec_qenc_protocol hc Config.pMin Config.pMax (by simp [protocolRanges]) ha
    obtain ⟨vq, vw, hvq, hvw, hv⟩ := exec_qenc_protocol hc Config.vMin Config.vMax (by simp [protocolRanges]) hv
    obtain ⟨pq, pw, hpq, hpw, hp⟩ := exec_qenc_protocol hc Config.kpMin Config.kpMax (by simp [protocolRanges]) hp
    obtain ⟨dq, dw, hdq, hdw, hd⟩ := exec_qenc_protocol hc Config.kdMin Config.kdMax (by simp [protocolRanges]) hd
    refine ⟨tq, aq, vq, pq, dq, _, _, htq, haq, hvq, hpq, hdq, exec_fbMotion_ok htw haw hvw hpw hdw, ?_⟩
    rw [← ht, ← ha, ← hv, ← hp, ← hd]
    exact ⟨packId_toNat (wireCode .motorControl) tw target, ord_motionBuffer s.cfg aw vw pw dw⟩
  · have hanswer : answer s.cfg (.fbMotion target torque angle velocity kp kd) = .error .invalidOperand :=
      quantField_bind_invalid <| hnan.imp_right fun hnan _ =>
        quantField_bind_invalid <| hnan.imp_right fun hnan _ =>
          quantField_bind_invalid <| hnan.imp_right fun hnan _ =>
            quantField_bind_invalid <| hnan.imp_right fun hnan _ => quantField_bind_invalid (.inl hnan)
    rw [exec_eq_respond, hanswer]
    rfl

/-- Settles O48: at each corner the five codes are one and the same. -/
theorem motionCorners : Obligations.MotionCorners := by
  intro s target hc
  have hmin := exec_fbMotion_of_same_code target (quantField_min hc)
  have hmax := exec_fbMotion_of_same_code target (quantField_max hc)
  have hmiddle := exec_fbMotion_of_same_code target (quantField_middle hc)
  rw [Machine.motionFrame, motionBuffer_repeat_byte] at hmin hmax
  rw [Machine.motionFrame, motionBuffer_repeat] at hmiddle
  have hid := packId_toNat (wireCode .motorControl)
  exact ⟨⟨_, hmin, hid (0#8 ++ 0#8) target⟩, ⟨_, hmax, hid (255#8 ++ 255#8) target⟩, _, hmiddle,
    hid (128#8 ++ 0#8) target⟩

end Sys2Proof.FrameBuilder
end

section
/-! SUPPORT. The temperature of a motor-feedback frame: QDEC over the default temperature range (spec/44_frame_parser.md
R152). -/

namespace Sys2Proof.FrameParser

open Machine

/-- Adding `+0.0` to a value without a sign that binary64 holds leaves it as it is. -/
theorem fadd_zero {m : Nat} (h : holdable m) (hlt : m < unitsOverflow) :
    fadd (.fin false m) (.fin false 0) = .fin false m := by
  have hsum : fadd (.fin false m) (.fin false 0) = roundSum m false := by simp [fadd, Flt.units]
  have hexact : roundUnits m 1 = m := by simpa using roundUnits_exact m 1 Nat.one_pos h
  rw [hsum, roundSum]
  split_ifs with hzero
  · rw [Int.natCast_eq_zero.mp hzero]
  · rw [decide_eq_false (by omega), Int.natAbs_natCast, roundFlt_eq_fin (by rwa [hexact]), hexact]

/-- The distance QDEC adds to the lower bound does not overflow. -/
theorem decodedUnits_lt {mn mx : Flt} {N r : Nat} (hb : ValidBounds mn mx N) (hr : r ≤ N) :
    decodedUnits N (gap mn mx) r < unitsOverflow :=
  calc decodedUnits N (gap mn mx) r ≤ roundUnits (r * gap mn mx) 1 := decodedUnits_le hb.code_pos
    _ ≤ roundUnits (gap mn mx * N) 1 :=
      roundUnits_mono _ 1 _ 1 Nat.one_pos Nat.one_pos (by rw [Nat.mul_comm (gap mn mx)]; gcongr)
    _ < unitsOverflow := hb.scaled_lt

/-- The default temperature range starts at `+0.0` and is `6553.5`, `13107` halves, long. -/
theorem defaultTemperatureRange :
    f64Value Config.default.tempMin = .fin false 0 ∧
    gap (f64Value Config.default.tempMin) (f64Value Config.default.tempMax) = 13107 * 2 ^ 1073 := by
  decide +kernel

/-- A code times `6553.5` has at most 30 significant bits, so the product is exact; and `65535` is ten times `6553.5`,
so the quotient by it is that of the code by ten. -/
theorem decodedUnits_temperature {r : Nat} (hr : r ≤ 65535) :
    decodedUnits 65535 (13107 * 2 ^ 1073) r = roundUnits (r * unitsPerOne) 10 := by
  have hproduct : roundUnits (r * (13107 * 2 ^ 1073)) 1 = r * (13107 * 2 ^ 1073) := by
    have hold : holdable (r * (13107 * 2 ^ 1073)) := ⟨r * 13107, 1073, by omega, (Nat.mul_assoc ..).symm⟩
    simpa only [Nat.mul_one] using roundUnits_exact _ 1 Nat.one_pos hold
  have htenth : r * (13107 * 2 ^ 1073) * 10 = r * unitsPerOne * 65535 := by
    rw [← two_mul_half_units]
    generalize 2 ^ 1073 = half
    ring
  rw [decodedUnits, hproduct]
  exact roundUnits_congr _ _ _ _ (by decide) (by decide) htenth

/-- Settles O32: both sides are the one rounding of a tenth of the code. -/
theorem temperatureIsTenths : Obligations.TemperatureIsTenths := by
  intro s raw hc hraw
  obtain ⟨hlow, hhigh⟩ := qbits_of_cfgValid hc
  obtain ⟨hmin, hgap⟩ := defaultTemperatureRange
  have hq : qvalid s.cfg Config.default.tempMin Config.default.tempMax 16#8 = true :=
    qvalid_of_qvalid (c := Config.default) (by decide +kernel) hlow hhigh
  have hb := validBounds_of_qvalid hc hq
  have hover := decodedUnits_lt hb (r := raw.toNat) hraw
  have htenth : decodedUnits (codeMax 16#8) (gap (f64Value Config.default.tempMin) (f64Value Config.default.tempMax))
      raw.toNat = roundUnits (raw.toNat * unitsPerOne) 10 := by
    rw [hgap, codeMax_qbits, decodedUnits_temperature hraw]
  rw [htenth] at hover
  refine ⟨_, exec_qdec hq, ?_⟩
  rw [f64Value_f64Pattern (held_dequantised hc hq raw)]
  calc dequantised raw (f64Value Config.default.tempMin) (f64Value Config.default.tempMax) 16#8
      = fadd (.fin false (roundUnits (raw.toNat * unitsPerOne) 10)) (.fin false 0) := by
        rw [hb.dequantised_eq, Nat.min_eq_left (codeMax_qbits ▸ hraw), htenth, hmin]
    _ = .fin false (roundUnits (raw.toNat * unitsPerOne) 10) := fadd_zero (roundUnits_holdable _ 10 (by decide)) hover
    _ = roundFlt false (raw.toNat * unitsPerOne) 10 := (roundFlt_eq_fin hover false).symm
    _ = fdiv (fltOfNat raw.toNat) (fltOfNat 10) := by
        rw [fltOfNat_eq_fin (by omega), fltOfNat_eq_fin (by decide), fdiv_eq_roundFlt (by decide)]

end Sys2Proof.FrameParser
end

section
/-! SUPPORT. What the frame parser answers, said once: FP_PARSE is the arm of its wire opcode, a feedback field is a QDEC,
and when an arm raises `ProtocolError` (spec/44_frame_parser.md R150 to R155). -/

namespace Sys2Proof.FrameParser

open Machine

/-! ## FP_PARSE is the arm of its wire opcode -/

section

variable (s : State) {id : Ident} (dlc : BitVec 4) (B : Buffer)

/-- FP_PARSE answers what the arm does that the frame selects when presented without an op code (R150, R64). -/
theorem exec_fpParse (id : Ident) : exec (.fpParse id dlc B) s = exec (decodeInbound id dlc B) s := by
  rw [exec_eq_settle, exec_eq_settle, answer, parseFrame, decodeInbound]
  split_ifs <;> rfl

theorem exec_fpParse_motorFeedback (h : id.toNat / 2 ^ 24 = 2) :
    exec (.fpParse id dlc B) s = exec (.fpMotorFeedback id dlc B) s := by
  rw [exec_fpParse, decodeInbound, if_pos ((idOpcode_eq_iff id 2 (by decide)).mpr h)]

theorem exec_fpParse_parameterFeedback (h : id.toNat / 2 ^ 24 = 17) :
    exec (.fpParse id dlc B) s = exec (.fpParameterFeedback id dlc B) s := by
  have hopcode : idOpcode id = 17#5 := (idOpcode_eq_iff id 17 (by decide)).mpr h
  simp [exec_fpParse, decodeInbound, hopcode]

theorem exec_fpParse_fault (h : id.toNat / 2 ^ 24 = 21) :
    exec (.fpParse id dlc B) s = exec (.fpFault id dlc B) s := by
  have hopcode : idOpcode id = 21#5 := (idOpcode_eq_iff id 21 (by decide)).mpr h
  simp [exec_fpParse, decodeInbound, hopcode]

theorem exec_fpParse_unknown (h2 : id.toNat / 2 ^ 24 ≠ 2) (h17 : id.toNat / 2 ^ 24 ≠ 17)
    (h21 : id.toNat / 2 ^ 24 ≠ 21) : exec (.fpParse id dlc B) s = exec (.fpUnknown id dlc B) s := by
  rw [exec_fpParse, decodeInbound, if_neg ((idOpcode_eq_iff id 2 (by decide)).not.mpr h2),
    if_neg ((idOpcode_eq_iff id 17 (by decide)).not.mpr h17),
    if_neg ((idOpcode_eq_iff id 21 (by decide)).not.mpr h21)]

end

/-! ## A feedback field (R152) -/

/-- QDEC over valid bounds at the protocol's width gives the field's value. -/
theorem exists_feedbackField {s : State} {mn mx : F64} (hq : qvalid s.cfg mn mx 16#8 = true) (B : Buffer) (off : Nat) :
    ∃ (q : BitVec 32) (x : F64), q.toNat = ord s.cfg.fbOrder (memRead B off 2) ∧
      exec (.qdec q mn mx 16#8) s = .next { s with resp := some (.ok (.real x)) } ∧
      feedbackField s.cfg B off mn mx = .ok x := by
  refine ⟨(readU16 s.cfg.fbOrder B off).zeroExtend 32, _, ?_, exec_qdec hq, ?_⟩
  · rw [← toNat_readU16]
    exact BitVec.toNat_setWidth_of_le (by decide)
  · rw [feedbackField, Config.qbits, qdecValue, hq]
    rfl

/-- A protocol quantity has a value, and it lies in its range. -/
theorem exists_feedbackField_protocol {s : State} (hc : cfgValid s.cfg = true) (mn mx : F64)
    (hrange : (mn, mx) ∈ protocolRanges) (B : Buffer) (off : Nat) :
    ∃ (q : BitVec 32) (x : F64), q.toNat = ord s.cfg.fbOrder (memRead B off 2) ∧
      exec (.qdec q mn mx 16#8) s = .next { s with resp := some (.ok (.real x)) } ∧
      feedbackField s.cfg B off mn mx = .ok x ∧ inRange x mn mx = true := by
  obtain ⟨q, x, hbytes, hexec, hfield⟩ := exists_feedbackField (qvalid_protocolRanges hc hrange) B off
  exact ⟨q, x, hbytes, hexec, hfield, inRange_of_qdecValue hc hrange hfield⟩

/-- A valid configuration has a valid temperature range (R15, R85). -/
theorem qvalid_temperature {c : Cfg} (h : cfgValid c = true) : qvalid c c.tempMin c.tempMax 16#8 = true := by
  simp only [cfgValid, Bool.and_eq_true] at h
  tauto

/-- QDEC does not check a length, so a field raises no `ProtocolError` (R88). -/
theorem feedbackField_ne_protocolError (c : Cfg) (B : Buffer) (off : Nat) (mn mx : F64) :
    feedbackField c B off mn mx ≠ .error .protocolError := by
  rcases qdecValue_cases c ((readU16 c.fbOrder B off).zeroExtend 32) mn mx Config.qbits with ⟨-, h⟩ | ⟨-, h⟩ <;>
    simp [feedbackField, h]

/-! ## When an arm raises ProtocolError (R151) -/

theorem bind_ne_error {α : Type} {a : Except Raise α} {f : α → Except Raise Result} {e : Raise} (ha : a ≠ .error e)
    (hf : ∀ x, f x ≠ .error e) : (a >>= f) ≠ .error e := by
  cases a with
  | ok x => exact hf x
  | error e' => exact ha ∘ fun h => congrArg Except.error (Except.error.inj h)

theorem exec_eq_raised_iff (i : Instr) (s : State) (e : Raise) :
    exec i s = .next { s with resp := some (.raised e) } ↔ answer s.cfg i = .error e := by
  rw [exec_eq_respond]
  cases answer s.cfg i <;> simp [State.respond]

theorem lengthChecked_eq_protocolError_iff (dlc : BitVec 4) (arm : Except Raise Result) :
    lengthChecked dlc arm = .error .protocolError ↔ 8 < dlc.toNat ∨ arm = .error .protocolError := by
  unfold lengthChecked
  split_ifs with hlong <;> simp [hlong]

theorem ne_eight_of_long {dlc : BitVec 4} (h : 8 < dlc.toNat) : dlc ≠ 8#4 := by
  rintro rfl
  exact absurd h (by decide)

theorem armMotorFeedback_eq_protocolError_iff (c : Cfg) (id : Ident) (dlc : BitVec 4) (B : Buffer) :
    armMotorFeedback c id dlc B = .error .protocolError ↔ dlc ≠ 8#4 := by
  unfold armMotorFeedback
  split_ifs with hlen
  · simp [hlen]
  · have hfield := feedbackField_ne_protocolError c B
    exact iff_of_false (bind_ne_error (hfield _ _ _) fun angle => bind_ne_error (hfield _ _ _) fun velocity =>
      bind_ne_error (hfield _ _ _) fun torque => bind_ne_error (hfield _ _ _) fun temperature => nofun) hlen

theorem armParameterFeedback_eq_protocolError_iff (c : Cfg) (dlc : BitVec 4) (B : Buffer) :
    armParameterFeedback c dlc B = .error .protocolError ↔ dlc ≠ 8#4 := by
  unfold armParameterFeedback
  split_ifs with hlen <;> simp [hlen, pure, Except.pure]

section

variable (s : State) (id : Ident) (dlc : BitVec 4) (B : Buffer)

theorem exec_fpMotorFeedback_protocolError_iff :
    exec (.fpMotorFeedback id dlc B) s = .next { s with resp := some (.raised .protocolError) } ↔ dlc ≠ 8#4 := by
  rw [exec_eq_raised_iff, answer, lengthChecked_eq_protocolError_iff, armMotorFeedback_eq_protocolError_iff]
  exact or_iff_right_of_imp ne_eight_of_long

theorem exec_fpParameterFeedback_protocolError_iff :
    exec (.fpParameterFeedback id dlc B) s = .next { s with resp := some (.raised .protocolError) } ↔ dlc ≠ 8#4 := by
  rw [exec_eq_raised_iff, answer, lengthChecked_eq_protocolError_iff, armParameterFeedback_eq_protocolError_iff]
  exact or_iff_right_of_imp ne_eight_of_long

theorem exec_fpFault_protocolError_iff :
    exec (.fpFault id dlc B) s = .next { s with resp := some (.raised .protocolError) } ↔ 8 < dlc.toNat := by
  rw [exec_eq_raised_iff, answer, lengthChecked_eq_protocolError_iff]
  exact or_iff_left nofun

theorem exec_fpUnknown_protocolError_iff :
    exec (.fpUnknown id dlc B) s = .next { s with resp := some (.raised .protocolError) } ↔ 8 < dlc.toNat := by
  rw [exec_eq_raised_iff, answer, lengthChecked_eq_protocolError_iff]
  exact or_iff_left nofun

/-- FP_PARSE's own checks, wire opcode by wire opcode (R151). -/
theorem exec_fpParse_protocolError_iff :
    exec (.fpParse id dlc B) s = .next { s with resp := some (.raised .protocolError) } ↔
      8 < dlc.toNat ∨ ((id.toNat / 2 ^ 24 = 2 ∨ id.toNat / 2 ^ 24 = 17) ∧ dlc ≠ 8#4) := by
  have hlong : 8 < dlc.toNat → dlc ≠ 8#4 := ne_eight_of_long
  by_cases h2 : id.toNat / 2 ^ 24 = 2
  · rw [exec_fpParse_motorFeedback s dlc B h2, exec_fpMotorFeedback_protocolError_iff]
    tauto
  by_cases h17 : id.toNat / 2 ^ 24 = 17
  · rw [exec_fpParse_parameterFeedback s dlc B h17, exec_fpParameterFeedback_protocolError_iff]
    tauto
  by_cases h21 : id.toNat / 2 ^ 24 = 21
  · rw [exec_fpParse_fault s dlc B h21, exec_fpFault_protocolError_iff]
    tauto
  · rw [exec_fpParse_unknown s dlc B h2 h17 h21, exec_fpUnknown_protocolError_iff]
    tauto

end

/-! ## What an arm completes with -/

/-- The MotorFeedback arm puts its four fields together with those of the identifier (R152). -/
theorem exec_fpMotorFeedback_ok {s : State} {B : Buffer} {angle velocity torque temperature : F64} (id : Ident)
    (ha : feedbackField s.cfg B 0 Config.pMin Config.pMax = .ok angle)
    (hv : feedbackField s.cfg B 2 Config.vMin Config.vMax = .ok velocity)
    (ht : feedbackField s.cfg B 4 Config.tMin Config.tMax = .ok torque)
    (htemp : feedbackField s.cfg B 6 s.cfg.tempMin s.cfg.tempMax = .ok temperature) :
    exec (.fpMotorFeedback id 8#4 B) s = .next { s with resp := some (.ok (.motorFeedback 2#5 (idFaults id) (idMode id)
      (idMid id) (idLow id) angle velocity torque temperature)) } := by
  have harm : armMotorFeedback s.cfg id 8#4 B = .ok (.motorFeedback 2#5 (idFaults id) (idMode id) (idMid id) (idLow id)
      angle velocity torque temperature) := by
    rw [armMotorFeedback, if_neg (not_not_intro rfl), ha, hv, ht, htemp]
    rfl
  rw [exec_eq_respond, answer, harm]
  rfl

theorem lengthChecked_of_le {dlc : BitVec 4} (h : dlc.toNat ≤ 8) (arm : Except Raise Result) :
    lengthChecked dlc arm = arm := if_neg (Nat.not_lt.mpr h)

/-- The bytes below the length are kept, the others are zero (R154). -/
theorem getByte_keepBelow (B : Buffer) (len : Nat) {k : Nat} (hk : k < 8) :
    getByte (keepBelow B len) k = if k < len then getByte B k else 0 := by
  interval_cases k <;> rfl

end Sys2Proof.FrameParser
end

section
/-! SUPPORT. The statements about the frame parser (spec/44_frame_parser.md R151 to R155). -/

namespace Sys2Proof.FrameParser

open Machine

/-- Settles O52: each of the four fields is a QDEC, and the parser is its arm. -/
theorem parseMotorFeedback : Obligations.ParseMotorFeedback := by
  refine ⟨fun s id dlc B hid hlen => ?_, fun s id B hc hid => ?_⟩
  · rw [exec_fpParse_motorFeedback s dlc B hid, and_self]
    exact (exec_fpMotorFeedback_protocolError_iff s id dlc B).mpr hlen
  · obtain ⟨aq, angle, haq, hangle, ha, hain⟩ :=
      exists_feedbackField_protocol hc Config.pMin Config.pMax (by simp [protocolRanges]) B 0
    obtain ⟨vq, velocity, hvq, hvelocity, hv, hvin⟩ :=
      exists_feedbackField_protocol hc Config.vMin Config.vMax (by simp [protocolRanges]) B 2
    obtain ⟨tq, torque, htq, htorque, ht, htin⟩ :=
      exists_feedbackField_protocol hc Config.tMin Config.tMax (by simp [protocolRanges]) B 4
    obtain ⟨cq, temperature, hcq, htemperature, htemp⟩ := exists_feedbackField (qvalid_temperature hc) B 6
    have harm := exec_fpMotorFeedback_ok id ha hv ht htemp
    exact ⟨aq, vq, tq, cq, angle, velocity, torque, temperature, idFaults id, idMode id, idMid id, idLow id,
      (exec_fpParse_motorFeedback s 8#4 B hid).trans harm, harm, haq, hvq, htq, hcq, hangle, hvelocity, htorque,
      htemperature, idMode_toNat id, idFaults_toNat id, idMid_toNat id, idLow_toNat id, hain, hvin, htin⟩

/-- Settles O53: the index is the two bytes in the receive order, and the parser is its arm. -/
theorem parseParameterFeedback : Obligations.ParseParameterFeedback := by
  intro s id dlc B hid
  rw [exec_fpParse_parameterFeedback s dlc B hid]
  refine ⟨?_, fun hlen => ?_⟩
  · rintro rfl
    have harm := exec_eq_respond (.fpParameterFeedback id 8#4 B) s
    exact ⟨readU16 s.cfg.pidxRxOrder B 0, toNat_readU16 s.cfg.pidxRxOrder B 0, harm, harm⟩
  · rw [and_self]
    exact (exec_fpParameterFeedback_protocolError_iff s id dlc B).mpr hlen

/-- Settles O54: the arm copies the bytes below the length, and the parser is its arm. -/
theorem parseFault : Obligations.ParseFault := by
  intro s id dlc B hid hlen
  have harm := exec_eq_respond (.fpFault id dlc B) s
  rw [answer, lengthChecked_of_le hlen] at harm
  exact ⟨idMid id, keepBelow B dlc.toNat, (exec_fpParse_fault s dlc B hid).trans harm, harm, idMid_toNat id,
    fun k hk => getByte_keepBelow B dlc.toNat hk⟩

/-- Settles O55: the catch-all arm answers the wire opcode, and the parser is its arm. -/
theorem parseUnknown : Obligations.ParseUnknown := by
  intro s id dlc B h2 h17 h21 hlen
  have harm := exec_eq_respond (.fpUnknown id dlc B) s
  rw [answer, lengthChecked_of_le hlen] at harm
  exact ⟨idOpcode id, idOpcode_toNat id, (exec_fpParse_unknown s dlc B h2 h17 h21).trans harm, harm⟩

/-- Settles O56, arm by arm. -/
theorem protocolErrorExactly : Obligations.ProtocolErrorExactly :=
  ⟨fun s id dlc B => ⟨exec_fpParse_protocolError_iff s id dlc B,
    fun _ => exec_fpMotorFeedback_protocolError_iff s id dlc B,
    fun _ => exec_fpParameterFeedback_protocolError_iff s id dlc B,
    fun _ => exec_fpFault_protocolError_iff s id dlc B,
    fun _ _ _ => exec_fpUnknown_protocolError_iff s id dlc B⟩,
   fun p hp => by simp [decodeOp, hp]⟩

end Sys2Proof.FrameParser
end

section
/-! SUPPORT. The statements about the statuses (spec/60_exceptions.md R185, R189 to R191): which causes an answer may
have, operation by operation, and the response port by port. -/

namespace Sys2Proof.Exceptions

open Machine FrameParser

/-! ## The causes of an answer -/

/-- An answer that is a result, or an error of one of the causes listed. -/
def RaisesOnly {α : Type} (causes : List Raise) (a : Except Raise α) : Prop := ∀ e, a = .error e → e ∈ causes

section

variable {α β : Type} {causes : List Raise}

theorem raisesOnly_ok (x : α) : RaisesOnly causes (.ok x) := nofun

theorem raisesOnly_error {e : Raise} (h : e ∈ causes) : RaisesOnly causes (.error e : Except Raise α) := by
  rintro _ ⟨⟩
  exact h

theorem raisesOnly_bind {a : Except Raise α} {f : α → Except Raise β} (ha : RaisesOnly causes a)
    (hf : ∀ x, RaisesOnly causes (f x)) : RaisesOnly causes (a >>= f) := by
  cases a with
  | ok x => exact hf x
  | error e => exact raisesOnly_error (ha e rfl)

end

/-! ## Operation by operation (R185 to R188, R192) -/

section

variable (c : Cfg) (mn mx : F64)

theorem qencValue_raisesOnly (v : Flt) (bits : BitVec 8) :
    RaisesOnly [.invalidOperand] (qencValue c v mn mx bits) := by
  rcases qencValue_cases c v mn mx bits with ⟨-, h⟩ | ⟨-, -, h⟩ <;> rw [h]
  · exact raisesOnly_error (by simp)
  · exact raisesOnly_ok _

theorem qencsValue_raisesOnly (v : Flt) : RaisesOnly [.invalidOperand, .rangeError] (qencsValue c v mn mx) := by
  rcases qencsValue_cases c v mn mx with ⟨-, h⟩ | ⟨-, -, h⟩ | ⟨-, -, -, h⟩ <;> rw [h]
  · exact raisesOnly_error (by simp)
  · exact raisesOnly_error (by simp)
  · exact raisesOnly_ok _

theorem qdecValue_raisesOnly (raw : BitVec 32) (bits : BitVec 8) :
    RaisesOnly [.invalidOperand] (qdecValue c raw mn mx bits) := by
  rcases qdecValue_cases c raw mn mx bits with ⟨-, h⟩ | ⟨-, h⟩ <;> rw [h]
  · exact raisesOnly_error (by simp)
  · exact raisesOnly_ok _

theorem quantField_raisesOnly (x : F64) : RaisesOnly [.invalidOperand] (quantField c x mn mx) :=
  raisesOnly_bind (qencValue_raisesOnly c mn mx _ _) fun _ => raisesOnly_ok _

end

theorem pvalidate_raisesOnly (c : Cfg) (fmt : Fmt) (bounds : Option Bounds) (v : BitVec 32) :
    RaisesOnly [.invalidOperand, .rangeError] (pvalidate c fmt bounds v) := by
  cases bounds with
  | none =>
    rw [pvalidate_unbounded]
    split_ifs
    · exact raisesOnly_ok _
    · exact raisesOnly_error (by simp)
  | some b =>
    rcases pvalidate_bounded c fmt b v with ⟨-, h⟩ | ⟨-, -, h⟩ | ⟨-, -, -, -, h⟩ <;> rw [h]
    · exact raisesOnly_error (by simp)
    · exact raisesOnly_error (by simp)
    · exact raisesOnly_ok _

theorem lengthChecked_raisesOnly {dlc : BitVec 4} {arm : Except Raise Result}
    (h : RaisesOnly [.protocolError] arm) : RaisesOnly [.protocolError] (lengthChecked dlc arm) := by
  unfold lengthChecked
  split_ifs
  · exact raisesOnly_error (by simp)
  · exact h

/-- Over bounds that are valid a feedback field raises nothing (R88). -/
theorem feedbackField_raisesOnly {c : Cfg} {mn mx : F64} (hq : qvalid c mn mx 16#8 = true) (B : Buffer) (off : Nat)
    (causes : List Raise) : RaisesOnly causes (feedbackField c B off mn mx) := by
  obtain ⟨-, x, -, -, h⟩ := exists_feedbackField (s := ⟨c, [], none⟩) hq B off
  exact h ▸ raisesOnly_ok x

/-- A valid configuration leaves the MotorFeedback arm its length check alone, the last paragraph of R191. -/
theorem armMotorFeedback_raisesOnly {c : Cfg} (hc : cfgValid c = true) (id : Ident) (dlc : BitVec 4) (B : Buffer) :
    RaisesOnly [.protocolError] (armMotorFeedback c id dlc B) := by
  have hfield {mn mx : F64} (hrange : (mn, mx) ∈ protocolRanges) (off : Nat) :
      RaisesOnly [.protocolError] (feedbackField c B off mn mx) :=
    feedbackField_raisesOnly (qvalid_protocolRanges hc hrange) B off _
  unfold armMotorFeedback
  split_ifs
  · exact raisesOnly_error (by simp)
  · exact raisesOnly_bind (hfield (by simp [protocolRanges]) 0) fun angle =>
      raisesOnly_bind (hfield (by simp [protocolRanges]) 2) fun velocity =>
      raisesOnly_bind (hfield (by simp [protocolRanges]) 4) fun torque =>
      raisesOnly_bind (feedbackField_raisesOnly (qvalid_temperature hc) B 6 _) fun temperature => raisesOnly_ok _

theorem armParameterFeedback_raisesOnly (c : Cfg) (dlc : BitVec 4) (B : Buffer) :
    RaisesOnly [.protocolError] (armParameterFeedback c dlc B) := by
  unfold armParameterFeedback
  split_ifs
  · exact raisesOnly_error (by simp)
  · exact raisesOnly_ok _

theorem armFault_raisesOnly (id : Ident) (dlc : BitVec 4) (B : Buffer) :
    RaisesOnly [.protocolError] (armFault id dlc B) := raisesOnly_ok _

theorem armUnknown_raisesOnly (id : Ident) : RaisesOnly [.protocolError] (armUnknown id) := raisesOnly_ok _

theorem parseFrame_raisesOnly {c : Cfg} (hc : cfgValid c = true) (id : Ident) (dlc : BitVec 4) (B : Buffer) :
    RaisesOnly [.protocolError] (parseFrame c id dlc B) := by
  apply lengthChecked_raisesOnly
  split_ifs
  · exact armMotorFeedback_raisesOnly hc id dlc B
  · exact armParameterFeedback_raisesOnly c dlc B
  · exact armFault_raisesOnly id dlc B
  · exact armUnknown_raisesOnly id

theorem ptlook_raisesOnly (c : Cfg) (index : BitVec 16) : RaisesOnly [.notFound] (answer c (.ptlook index)) := by
  rcases lookup_cases c.paramTable index with ⟨d, -, -, h⟩ | ⟨-, h⟩ <;> simp only [answer, h]
  · exact raisesOnly_ok _
  · exact raisesOnly_error (by simp)

/-! ## The column "raised by" -/

/-- The column "raised by" of R185, read by instruction; `answer_raisesOnly` ties it to what an instruction answers. -/
def causesOf : Instr → List Raise
  | .qenc _ _ _ _ | .qdec _ _ _ _ | .fbMotion _ _ _ _ _ _ => [.invalidOperand]
  | .qencs _ _ _ | .fbWrparam _ _ _ _ _ _ => [.invalidOperand, .rangeError]
  | .fpParse _ _ _ | .fpMotorFeedback _ _ _ | .fpParameterFeedback _ _ _ | .fpFault _ _ _ | .fpUnknown _ _ _ =>
      [.protocolError]
  | .ptlook _ => [.notFound]
  | .reservedOp14 | .reservedOp15 => [.badOp]
  | _ => []

theorem answer_raisesOnly {c : Cfg} (hc : cfgValid c = true) (i : Instr) : RaisesOnly (causesOf i) (answer c i) := by
  cases i with
  | qenc value mn mx bits => exact raisesOnly_bind (qencValue_raisesOnly c mn mx _ bits) fun _ => raisesOnly_ok _
  | qencs value mn mx => exact raisesOnly_bind (qencsValue_raisesOnly c mn mx _) fun _ => raisesOnly_ok _
  | qdec raw mn mx bits => exact raisesOnly_bind (qdecValue_raisesOnly c mn mx raw bits) fun _ => raisesOnly_ok _
  | fbWrparam target master index fmt bounds v =>
    exact raisesOnly_bind (pvalidate_raisesOnly c fmt bounds v) fun _ => raisesOnly_ok _
  | fbMotion =>
    have hfield (mn mx x : F64) := quantField_raisesOnly c mn mx x
    exact raisesOnly_bind (hfield _ _ _) fun _ => raisesOnly_bind (hfield _ _ _) fun _ =>
      raisesOnly_bind (hfield _ _ _) fun _ => raisesOnly_bind (hfield _ _ _) fun _ =>
      raisesOnly_bind (hfield _ _ _) fun _ => raisesOnly_ok _
  | fpParse id dlc B => exact parseFrame_raisesOnly hc id dlc B
  | fpMotorFeedback id dlc B => exact lengthChecked_raisesOnly (armMotorFeedback_raisesOnly hc id dlc B)
  | fpParameterFeedback id dlc B => exact lengthChecked_raisesOnly (armParameterFeedback_raisesOnly c dlc B)
  | fpFault id dlc B => exact lengthChecked_raisesOnly (armFault_raisesOnly id dlc B)
  | fpUnknown id dlc B => exact lengthChecked_raisesOnly (armUnknown_raisesOnly id)
  | ptlook index => exact ptlook_raisesOnly c index
  | reservedOp14 | reservedOp15 => exact raisesOnly_error (List.mem_singleton_self _)
  | _ => exact raisesOnly_ok _

/-- A transaction that raises a status has it for its answer. -/
theorem answer_eq_error_of_exec {i : Instr} {s t : State} {e : Raise} (h : exec i s = .next t)
    (hresp : t.resp = some (.raised e)) : answer s.cfg i = .error e := by
  obtain rfl := Host.Outcome.next.inj ((exec_eq_respond i s).symm.trans h)
  cases ha : answer s.cfg i with
  | ok r => simp [ha] at hresp
  | error e' => simpa [ha] using hresp

/-- Settles O13: the cause is one of the instruction's column. -/
theorem statusesRaisedBy : Obligations.StatusesRaisedBy := by
  intro i s t e hc h hresp
  have hcause := answer_raisesOnly hc i e (answer_eq_error_of_exec h hresp)
  cases i with
  | qenc | qdec | fbMotion | fpParse | fpMotorFeedback | fpParameterFeedback | fpFault | fpUnknown | ptlook
  | reservedOp14 | reservedOp15 =>
    obtain rfl := List.mem_singleton.mp hcause
    simp [mnemonicOf]
  | qencs | fbWrparam =>
    obtain rfl | rfl := List.mem_pair.mp hcause <;> simp [mnemonicOf]
  | _ => cases hcause

/-! ## The response port by port, and the reserved codes -/

theorem raiseStatus_ne_ok (e : Raise) : raiseStatus e ≠ .ok := by
  cases e <;> decide

/-- The codes 6 and 7 are no status's (R185). -/
theorem statusCode_lt_six (st : Status) : (statusCode st).toNat < 6 := by
  cases st <;> decide

/-- Settles O14, port by port. -/
theorem raisedResponseHoldsNothing : Obligations.RaisedResponseHoldsNothing := by
  refine ⟨fun _ => rfl, rfl, rfl, rfl, rfl, rfl, fun e => ⟨raiseStatus_ne_ok e, ?noPort⟩, fun _ => rfl, fun _ => rfl,
    fun _ => rfl, fun _ _ _ => ?request, fun _ _ _ _ _ => ?feedback, fun _ _ _ => ?frame,
    fun _ _ _ _ _ _ _ _ _ => ?motor, fun _ _ _ => ?parameter, fun _ _ _ _ => ?fault, fun _ => ?unknown,
    rfl, rfl, rfl, rfl, rfl, rfl, rfl, rfl, rfl, rfl, fun r => statusCode_lt_six (portStatus r)⟩
  all_goals and_intros <;> rfl

/-- Settles O15: the decoder reads no port but `op`, and the answer is `BadOp` in every state. -/
theorem reservedOpsRaiseBadOp : Obligations.ReservedOpsRaiseBadOp :=
  ⟨fun s => ⟨exec_eq_respond .reservedOp14 s, exec_eq_respond .reservedOp15 s⟩,
   fun p => ⟨fun hp => by simp [decodeOp, hp], fun hp => by simp [decodeOp, hp]⟩⟩

end Sys2Proof.Exceptions
end

section
/-! SUPPORT. The statements about the host environment (spec/60_exceptions.md R201 to R208; log 19): a received frame is
FP_PARSE's response, delivered. -/

namespace Sys2Proof.HostEnvironment

open Machine FrameParser

/-! ## A received frame -/

section

variable {c : Cfg} {b : Bus} {id : Ident} {dlc : BitVec 4} {B : Buffer}

/-- A running bus delivers what FP_PARSE answers (R204, R205, R208). -/
theorem busStep_received {t : State} (hrun : b.running = true)
    (h : exec (.fpParse id dlc B) ⟨c, [], none⟩ = .next t) : busStep c b (.received id dlc B) = deliver b t.resp := by
  simp only [busStep, hrun, if_true, transact, h]

theorem deliver_fault_outstanding {o : Outstanding} (h : b.outstanding = some o) (opcode : BitVec 5) (motor : Byte)
    (raw : Buffer) (len : BitVec 4) :
    deliver b (some (.ok (.fault opcode motor raw len))) = releasePermit b (.failed o.caller (.faultFrame raw)) := by
  simp only [deliver, h]

theorem deliver_fault_idle (h : b.outstanding = none) (opcode : BitVec 5) (motor : Byte) (raw : Buffer)
    (len : BitVec 4) : deliver b (some (.ok (.fault opcode motor raw len))) = (b, [.discarded]) := by
  simp only [deliver, h]

theorem deliver_unknown (b : Bus) (opcode : BitVec 5) : deliver b (some (.ok (.unknown opcode))) = (b, [.dropped]) :=
  rfl

theorem deliver_raised (b : Bus) (e : Raise) : deliver b (some (.raised e)) = (b, [.dropped]) := rfl

end

/-! ## Fault frames and dropped frames -/

/-- Settles O58: the frame parses to Fault (R154), whose delivery releases the permit. -/
theorem faultFrameFailsOutstanding : Obligations.FaultFrameFailsOutstanding := by
  intro c b id dlc B hrun hid hlen
  obtain ⟨motor, raw, hparse, -, -, hraw⟩ := parseFault ⟨c, [], none⟩ id dlc B hid hlen
  have hstep := busStep_received hrun hparse
  refine ⟨fun o ho => ?_, fun hidle => hstep.trans (deliver_fault_idle hidle ..)⟩
  have hrelease := hstep.trans (deliver_fault_outstanding ho ..)
  rcases releasePermit_cases b (.failed o.caller (.faultFrame raw)) with
    ⟨refused, s, rest, hgate, hrefused, hs, h⟩ | ⟨hrefused, h⟩
  · exact ⟨_, raw, _, hrelease.trans h, hraw, hrun, rfl, .inl ⟨refused, s, rest, s.record b.clock, hgate, hrefused, hs,
      rfl, rfl, idLow_toNat s.frame.id, idOpcode_toNat s.frame.id, rfl, rfl, rfl, rfl⟩⟩
  · exact ⟨_, raw, _, hrelease.trans h, hraw, hrun, rfl, .inr ⟨hrefused, rfl, rfl, rfl⟩⟩

/-- Settles O59: the frame raises `ProtocolError` (R151), or its length is allowed and it parses to Unknown (R155). -/
theorem droppedFramesSettleNothing : Obligations.DroppedFramesSettleNothing := by
  intro c b id dlc B hrun hframe
  by_cases herror : 8 < dlc.toNat ∨ ((id.toNat / 2 ^ 24 = 2 ∨ id.toNat / 2 ^ 24 = 17) ∧ dlc ≠ 8#4)
  · have hraise := (exec_fpParse_protocolError_iff ⟨c, [], none⟩ id dlc B).mpr herror
    exact (busStep_received hrun hraise).trans (deliver_raised b _)
  · obtain ⟨h2, h17, h21⟩ := (or_assoc.mpr hframe).resolve_left herror
    have hlen : dlc.toNat ≤ 8 := Nat.not_lt.mp fun hlong => herror (.inl hlong)
    obtain ⟨opcode, -, hparse, -⟩ := parseUnknown ⟨c, [], none⟩ id dlc B h2 h17 h21 hlen
    exact (busStep_received hrun hparse).trans (deliver_unknown b opcode)

end Sys2Proof.HostEnvironment
end

section
/-! SUPPORT. The statements about hazards (spec/70_reset_and_hazards.md R242, R243): FB_MOTION clamps an argument out of
range, and QDEC steps over zero in the middle of a symmetric range. -/

namespace Sys2Proof.Hazards

open Machine

/-! ## Clamped arguments (R242) -/

/-- Two instructions do the same in a state exactly if their answers agree. -/
theorem exec_eq_exec_iff (i j : Instr) (s : State) : exec i s = exec j s ↔ answer s.cfg i = answer s.cfg j := by
  rw [exec_eq_respond, exec_eq_respond]
  cases answer s.cfg i <;> cases answer s.cfg j <;> simp [State.respond]

section

variable {s : State} {x y mn mx : F64}

/-- QENC does the same with an argument and with the edge it is saturated to, under bad bounds too (R85, R86). -/
theorem exec_qenc_of_saturates (h : saturates x y mn mx) (bits : BitVec 8) :
    exec (.qenc x mn mx bits) s = exec (.qenc y mn mx bits) s := by
  cases hq : qvalid s.cfg mn mx bits with
  | false => rw [exec_qenc_invalid (.inl hq), exec_qenc_invalid (.inl hq)]
  | true =>
    obtain ⟨hhigh, hlow⟩ := qencClamps s x mn mx bits hq
    rcases h with rfl | ⟨habove, rfl⟩ | ⟨hbelow, rfl⟩
    · rfl
    · exact hhigh habove
    · exact hlow hbelow

/-- What QENC answers determines its code or its status. -/
theorem qencValue_eq_of_exec_eq {bits : BitVec 8} (h : exec (.qenc x mn mx bits) s = exec (.qenc y mn mx bits) s) :
    qencValue s.cfg (f64Value x) mn mx bits = qencValue s.cfg (f64Value y) mn mx bits := by
  rw [exec_eq_exec_iff, answer, answer] at h
  generalize qencValue s.cfg (f64Value x) mn mx bits = a at h ⊢
  generalize qencValue s.cfg (f64Value y) mn mx bits = b at h ⊢
  cases a <;> cases b <;> cases h <;> rfl

/-- A protocol field is QENC's code over its range at 16 bits (R59 (b), (c)), so it saturates as QENC does. -/
theorem quantField_of_saturates (h : saturates x y mn mx) : quantField s.cfg x mn mx = quantField s.cfg y mn mx := by
  rw [quantField, quantField, qencValue_eq_of_exec_eq (exec_qenc_of_saturates h Config.qbits)]

end

/-- Settles O47: each of the five fields is the one of the saturated argument. -/
theorem motionSaturates : Obligations.MotionSaturates := by
  intro s target torque angle velocity kp kd torque' angle' velocity' kp' kd' ht ha hv hp hd
  rw [exec_eq_exec_iff, answer, answer, quantField_of_saturates ht, quantField_of_saturates ha,
    quantField_of_saturates hv, quantField_of_saturates hp, quantField_of_saturates hd]

/-! ## No zero in a symmetric range (R243) -/

/-- Over one of the five ranges QDEC's value is finite, being within the range (R152). -/
theorem isFinite_dequantised {c : Cfg} {mn mx : F64} (hc : cfgValid c = true) (hrange : (mn, mx) ∈ protocolRanges)
    (raw : BitVec 32) : (dequantised raw (f64Value mn) (f64Value mx) 16#8).isFinite = true := by
  have hq := qvalid_protocolRanges hc hrange
  rcases qdecValue_cases c raw mn mx 16#8 with ⟨hq', -⟩ | ⟨-, h⟩
  · simp [hq] at hq'
  · obtain ⟨hfin, -⟩ := (validBounds_of_qvalid hc hq).inside (inRange_of_qdecValue hc hrange h)
    rwa [f64Value_f64Pattern (held_dequantised hc hq raw)] at hfin

/-- Over one of the five ranges a greater code does not decode to less (R88). -/
theorem units_dequantised_mono {c : Cfg} {mn mx : F64} (hc : cfgValid c = true) (hrange : (mn, mx) ∈ protocolRanges)
    {raw raw' : BitVec 32} (h : raw.toNat ≤ raw'.toNat) :
    (dequantised raw (f64Value mn) (f64Value mx) 16#8).units ≤
      (dequantised raw' (f64Value mn) (f64Value mx) 16#8).units :=
  (Flt.le_iff_units (isFinite_dequantised hc hrange raw) (isFinite_dequantised hc hrange raw')).mp
    (dequantised_mono hc (qvalid_protocolRanges hc hrange) h)

/-- The symmetric ranges are three of the five, and the two codes in the middle, `0x7FFF` and `0x8000`, decode to either
side of zero. -/
theorem symmetricRange_middle {mn mx : F64}
    (h : (mn, mx) ∈ [(Config.tMin, Config.tMax), (Config.pMin, Config.pMax), (Config.vMin, Config.vMax)]) :
    (mn, mx) ∈ protocolRanges ∧
    (dequantised 0x7FFF#32 (f64Value mn) (f64Value mx) 16#8).units < 0 ∧
    0 < (dequantised 0x8000#32 (f64Value mn) (f64Value mx) 16#8).units := by
  simp only [List.mem_cons, List.not_mem_nil, or_false, Prod.mk.injEq] at h
  rcases h with ⟨rfl, rfl⟩ | ⟨rfl, rfl⟩ | ⟨rfl, rfl⟩ <;>
    exact ⟨by simp [protocolRanges], by decide +kernel, by decide +kernel⟩

/-- Settles O31: QDEC is monotone, and every code is at most `0x7FFF` or at least `0x8000`. -/
theorem noCodeDecodesToZero : Obligations.NoCodeDecodesToZero := by
  intro s raw mn mx hc hsymmetric
  obtain ⟨hrange, hbelow, habove⟩ := symmetricRange_middle hsymmetric
  have hq := qvalid_protocolRanges hc hrange
  refine ⟨_, exec_qdec hq, ?_⟩
  rw [f64Value_f64Pattern (held_dequantised hc hq raw)]
  rcases Nat.lt_or_ge raw.toNat 0x8000 with hlow | hhigh
  · have hle : raw.toNat ≤ (0x7FFF#32).toNat := Nat.le_of_lt_succ hlow
    exact ((units_dequantised_mono hc hrange hle).trans_lt hbelow).ne
  · have hle : (0x8000#32).toNat ≤ raw.toNat := hhigh
    exact (habove.trans_le (units_dequantised_mono hc hrange hle)).ne'

end Sys2Proof.Hazards
end
